-- ==== Sys2Proof/Word.lean ====
section
/-!
DEFINITION. The vector and string types of the spec's notation (00_scope.md R7, R10).
-/
namespace Sys2Proof

/-- A character code, or one byte of a digest: `bv 8` (R10, R40). -/
abbrev Byte := BitVec 8

/-- A string: a finite list of characters, the leftmost first (R10). -/
abbrev Str := List Byte

/-- One 6-bit group of the Wiegand64 word (R5 GROUP_W, R68). -/
abbrev Group := BitVec 6

/-- The 26-bit Wiegand26 frame (R5 FRAME_W, R66). Index `k` of the vector is the source's frame
position `25 - k` (R8). -/
abbrev Frame := BitVec 26

/-- The 24-bit payload (R5 PAY_W). -/
abbrev Payload := BitVec 24

/-- The 20 bytes of a digest, byte 0 first (R5 DIGEST_BYTES, R40). -/
abbrev Digest := Vector Byte 20

end Sys2Proof
end

