-- ==== Sys2Proof/Config.lean ====
section
/-!
DEFINITION. What is fixed for the machine: the parameters of 00_scope.md R5, and the open values as constants
without a body (R6 `digest`; LATCH outside WAIT_DIGEST, U7; the parts of the text contracts that N14 leaves open).
-/
namespace Sys2Proof.Config

/-- MAX_ID_LEN: the longest identifier either encoder accepts (R5). -/
abbrev maxIdLen : Nat := 10

/-- The number of characters a command carries, and N_GROUPS, the number of groups of the W64 word (R5, R23). -/
abbrev nChars : Nat := 10

/-- The first value that does not fit the frame, `2^26` (R5 FRAME_W, R120). -/
abbrev frameLimit : Nat := 2 ^ 26

/-- The decimal weight of the facility code: ten to the FCID_PAD (R5, R123). -/
abbrev fcidWeight : Nat := 100000

/-- HEADER, bits 63 to 60 of the W64 word (R5, R144). -/
abbrev header : BitVec 4 := 0b0110#4

/-- ALPHA_UNKNOWN (R5, R69). -/
abbrev alphaUnknown : Group := 63#6

/-- The space character (R71). -/
abbrev space : Byte := 0x20#8

/-- The question mark, the image of every value outside the alphabet (R70, R71). -/
abbrev unknownChar : Byte := 0x3F#8

/-- HEX26_DIGITS (R5). -/
abbrev hex26Digits : Nat := 7

/-- HEX64_DIGITS (R5). -/
abbrev hex64Digits : Nat := 16

/-- The lengths of the two command formats in bits (R60), and of a reserved opcode, which is its `op` alone (R79). -/
abbrev formatILen : Nat := 93
abbrev formatCLen : Nat := 70
abbrev opLen : Nat := 4

/-- FREE VALUE. The digest function: total, deterministic, 20 bytes, otherwise open (R6, U10).
Log entry 8; safe. -/
opaque digest : Str → Digest

/-- FREE VALUE. What LATCH holds once PHASE is no longer WAIT_DIGEST: "any value" (R22, U7).
Log entry 7; safe. -/
opaque freeLatch : Nat → Str

/-- FREE VALUE. Whether a code that is neither space nor printable ASCII counts as white space (N14).
Log entry 15; safe. -/
opaque freeWhite : Byte → Bool

/-- FREE VALUE. What a code from 0x80 up becomes in upper case (N14: one character may become several).
Log entry 16; safe. -/
opaque freeUpper : Byte → Str

end Sys2Proof.Config
end

