-- ==== Sys2Proof/Syntax.lean ====
section
/-!
DEFINITION. Commands as syntax: the two operand records of 10_state.md R23, one constructor of `Instr` per row of
spec/opcode_table.json (R61, R62), and the flat command word of 30_encoding.md R60.
-/
namespace Sys2Proof

/-- The identifier operand of format I (R23, R63). -/
structure IdOperand where
  /-- 1 = the normaliser returned an identifier. -/
  present : Bool
  /-- The length of the normalised identifier, saturated at 255 by the host. -/
  len : BitVec 8
  /-- `ch[0..9]`, the first ten characters, leftmost first. Ten of them: `IdOperand.wf`. -/
  ch : Str
deriving DecidableEq, Repr

/-- `code.kind` (R23, R64). All four values of the field are defined (R62). -/
inductive Kind where
  | absent  -- 0 `K_ABSENT`: null or undefined
  | blank   -- 1 `K_BLANK`: present, but empty or white space
  | value   -- 2 `K_VALUE`: a hex value that fits 64 bits
  | ovf     -- 3 `K_OVF`: a hex value of 65 bits or more
deriving DecidableEq, Repr

/-- The code operand of format C (R23, R64). -/
structure CodeOperand where
  kind : Kind
  /-- The value; its low 64 bits for `K_OVF`; ignored for the kinds absent and blank. -/
  val : BitVec 64
deriving DecidableEq, Repr

/-- One constructor per row of the opcode table: the seven operations of R61 and the nine reserved
opcodes of R62, which have no format and so no operand. -/
inductive Instr where
  | w26Enc (id : IdOperand)
  | w26Dec (code : CodeOperand)
  | w26Rdfc (code : CodeOperand)
  | w26Rdid (code : CodeOperand)
  | w26Rdpay (code : CodeOperand)
  | w64Enc (id : IdOperand)
  | w64Dec (code : CodeOperand)
  | reserved5
  | reserved6
  | reserved7
  | reservedA
  | reservedB
  | reservedC
  | reservedD
  | reservedE
  | reservedF
deriving DecidableEq, Repr

/-- A flat command word: the wires of the command port, bit 0 the least significant (R60). `op` is always
the top 4 bits. The length is data because each format has its own (R78). -/
structure CmdWord where
  len : Nat
  bits : BitVec len
deriving DecidableEq, Repr

/-- Why a word on the command port is no command (log entry 2). -/
inductive Reject where
  /-- Fewer than 4 bits: there is no `op`. -/
  | tooShort (len : Nat)
  /-- The word does not have the one length of the format that its opcode names (R60, R78). -/
  | wrongLength (op : BitVec 4) (len : Nat)
deriving DecidableEq, Repr

/-- The source's seven functions on optional text (R61 "source operation", R76). -/
inductive SourceOp where
  | encode26
  | decode26
  | readFacilityCodeFrom
  | readIdNumberFrom
  | readDecimalPayload
  | encode64
  | decode64
deriving DecidableEq, Repr

end Sys2Proof
end

