-- ==== Sys2Proof/WellFormed.lean ====
section
/-!
DEFINITION. Which terms of the syntax are commands of this hardware: an identifier operand carries exactly the ten
character slots of 10_state.md R23. Every value of every other field has a meaning (30_encoding.md R79).
-/
namespace Sys2Proof

/-- The operand has the ten slots `ch[0..9]` (R23, R60). -/
def IdOperand.wf (id : IdOperand) : Bool :=
  id.ch.length == Config.nChars

/-- A well-formed instruction: its identifier operand, if it has one, is well formed. -/
def Instr.wf : Instr → Bool
  | .w26Enc id => id.wf
  | .w26Dec _ => true
  | .w26Rdfc _ => true
  | .w26Rdid _ => true
  | .w26Rdpay _ => true
  | .w64Enc id => id.wf
  | .w64Dec _ => true
  | .reserved5 => true
  | .reserved6 => true
  | .reserved7 => true
  | .reservedA => true
  | .reservedB => true
  | .reservedC => true
  | .reservedD => true
  | .reservedE => true
  | .reservedF => true

/-- The instruction stands for one of the nine reserved opcodes of R62. -/
def Instr.isReserved : Instr → Bool
  | .w26Enc _ => false
  | .w26Dec _ => false
  | .w26Rdfc _ => false
  | .w26Rdid _ => false
  | .w26Rdpay _ => false
  | .w64Enc _ => false
  | .w64Dec _ => false
  | .reserved5 => true
  | .reserved6 => true
  | .reserved7 => true
  | .reservedA => true
  | .reservedB => true
  | .reservedC => true
  | .reservedD => true
  | .reservedE => true
  | .reservedF => true

end Sys2Proof
end

