-- ==== Sys2Proof/Machine/State.lean ====
section
/-!
DEFINITION. The state of the machine as plain data: what 10_state.md R20 to R33 give it, and three fields of the
model's own (`agenda`, `fresh`, `unanswered`). STAT, ALPHA and REV are views and constants (R29, R30), see INVENTORY.md.
-/
namespace Sys2Proof.Machine

/-- PHASE, the only sequencing state (R21). -/
inductive Phase where
  /-- No command in progress; a command can be accepted. -/
  | idle
  /-- A `W26.ENC` was accepted, its digest request was sent, the response has not arrived. -/
  | waitDigest
  /-- A digest request was answered as unavailable; nothing is accepted until reset. -/
  | faulted
deriving DecidableEq, Repr

/-- The five fields of an `ST_OK` response of `W26.ENC` or `W26.DEC` (R24). -/
structure Wiegand26Result where
  hex : BitVec 28
  pay : BitVec 24
  fc : BitVec 8
  idn : BitVec 16
  fcid : BitVec 25
deriving DecidableEq, Repr

/-- A response (R24) as a tagged union, so that a field the (operation, status) pair does not define does not
exist (U6). -/
inductive Response where
  /-- `ST_OK` of `W26.ENC` and `W26.DEC`. -/
  | okFrame (r : Wiegand26Result)
  /-- `ST_OK` of the three accessors. -/
  | okAcc (acc : BitVec 24)
  /-- `ST_OK` of `W64.ENC`. -/
  | okCode64 (code64 : BitVec 64)
  /-- `ST_OK` of `W64.DEC`: `raw[0..9]`, `txt[0..9]`, `tlen`. -/
  | okText (raw txt : Str) (tlen : BitVec 4)
  /-- `ST_ABSENT`. -/
  | absent
  /-- `ST_TOO_LONG`. -/
  | tooLong
  /-- `ST_MALFORMED`. -/
  | malformed
  /-- `ST_FATAL_DIGEST`. -/
  | fatalDigest
deriving DecidableEq, Repr

/-- The digest unit's answer on the channel (R25, R74). -/
inductive DigestAnswer where
  /-- `dok`, with its 20 bytes. -/
  | ok (d : Digest)
  /-- `dfail`: unavailable. -/
  | fail
deriving DecidableEq, Repr

/-- One move of an agent (R20), as it stands in the model's agenda (log entry 3). -/
inductive Move where
  /-- The core takes a turn. -/
  | core
  /-- The host presents a command (R23, R204). -/
  | present (w : CmdWord)
  /-- The host calls one of the source's functions on an optional text (R76): it runs the normaliser or
  `hex_parse` and presents the command. -/
  | call (f : SourceOp) (t : Option Str)
  /-- The host reads the oldest unread response (R24). -/
  | readResponse
  /-- The host asserts reset (R201). -/
  | assertReset
  /-- The digest unit answers with the digest of the request (R25, R173 (a)). -/
  | digestOk
  /-- The digest unit answers "unavailable" (R25, R173 (b)). -/
  | digestFail
deriving DecidableEq, Repr

/-- The state of WGC and of what stands on its ports. -/
structure State where
  /-- PHASE (R21). -/
  phase : Phase
  /-- LATCH, the identifier of the pending `W26.ENC` (R22). -/
  latch : Str
  /-- The command port: commands presented and not accepted, in issue order; the first is on the wires
  (R23, R45, R204; log entry 4). -/
  cmdPort : List CmdWord
  /-- The response port: responses emitted and not read, oldest first (R24, R45; log entry 5). -/
  rspPort : List Response
  /-- The digest request outstanding (R25). -/
  dreq : Option Str
  /-- The digest unit's answer that the core has not consumed (R25, R46). -/
  dans : Option DigestAnswer
  /-- MODEL'S OWN: the moves still to come; when it is empty the core takes every turn (log entry 3). -/
  agenda : List Move
  /-- MODEL'S OWN: how many free values were drawn (log entry 7). -/
  fresh : Nat
  /-- MODEL'S OWN: how many of the commands issued so far a reset left without a response (R206; log entry 25). -/
  unanswered : Nat
deriving DecidableEq, Repr

/-- The machine right after reset (R33, R200). LATCH is unspecified there; the model names the empty
string (log entry 6). -/
def State.reset : State where
  phase := .idle
  latch := []
  cmdPort := []
  rspPort := []
  dreq := none
  dans := none
  agenda := []
  fresh := 0
  unanswered := 0

/-- Why the machine stops with a fault. There is no constructor, because no rule of the spec stops the machine: an
error is a response (R177), the digest fault is the state FAULTED, which a reset leaves (R173, R201), and an
unanswered request is a wait (R173 (c)). Log entry 12. -/
inductive Fault
deriving DecidableEq, Repr

/-- Why the model gives no step. -/
inductive Refusal where
  /-- Raised by `exec` for an instruction without a meaning; no arm of this model does. Safe. -/
  | notModelled (mnemonic : String)
  /-- Raised by the nine reserved opcodes: "a model must refuse such a command (give it no step and no
  response)" (R62, U5). Safe. -/
  | reservedOpcode (op : BitVec 4)
  /-- Raised by `step` when the word on the command port does not have the length of its opcode's format (R60,
  R78; log entry 2). Safe. -/
  | notACommand (r : Reject)
  /-- Raised by the host's move `call` for a text that `hex_parse` does not define: "the host must not
  present it, and a model refuses it" (R73, U8). Safe. -/
  | undefinedText
deriving DecidableEq, Repr

end Sys2Proof.Machine
end

