-- ==== Sys2Proof/Machine/Flags.lean ====
section
/-!
DEFINITION. The bits WGC computes about other bits. It has no flags that persist (R28); what it has is the two parity
bits of the frame (R103, R104), the status number of a response (R65) and the status register STAT (R29).
-/
namespace Sys2Proof.Machine

/-- `popcount(v)`: the number of bits equal to 1 (R7). -/
def popcount {n : Nat} (v : BitVec n) : Nat :=
  (List.range n).countP fun k => v.getLsbD k

/-- EVENPAR: 1 when the 13 bits at frame positions 1 to 13 hold an odd number of ones (R103, C5). -/
def evenPar (w : Frame) : BitVec 1 :=
  BitVec.ofNat 1 (popcount (w.extractLsb' 12 13) % 2)

/-- ODDPAR: 1 when the 12 bits at frame positions 14 to 25 hold an even number of ones (R104). -/
def oddPar (w : Frame) : BitVec 1 :=
  BitVec.ofNat 1 (1 - popcount (w.extractLsb' 0 12) % 2)

/-- `rsp.st` (R65). The numbers 5, 6 and 7 are never produced. -/
def Response.status : Response → BitVec 3
  | .okFrame _ => 0#3
  | .okAcc _ => 0#3
  | .okCode64 _ => 0#3
  | .okText _ _ _ => 0#3
  | .absent => 1#3
  | .tooLong => 2#3
  | .malformed => 3#3
  | .fatalDigest => 4#3

/-- `STAT.busy`: PHASE is not IDLE (R29). -/
def State.busy (s : State) : Bool :=
  s.phase != .idle

/-- `STAT.fault`: PHASE is FAULTED (R29). -/
def State.fault (s : State) : Bool :=
  s.phase == .faulted

/-- STAT, read-only: bit 0 is `busy`, bit 1 is `fault` (R29). -/
def State.stat (s : State) : BitVec 2 :=
  BitVec.ofBool s.fault ++ BitVec.ofBool s.busy

end Sys2Proof.Machine
end

