-- ==== Sys2Proof/Machine/Operands.lean ====
section
/-!
DEFINITION. What the operand fields of a command mean (30_encoding.md R63, R64), the validation shared by the decoder
and the accessors (41_w26_decode.md R120), and the written operands of R75.
-/
namespace Sys2Proof

/-- The normaliser returned "absent", or an empty identifier, which is treated the same way (R63, D25). -/
def IdOperand.isAbsent (id : IdOperand) : Bool :=
  !id.present || id.len == 0#8

/-- The identifier is longer than MAX_ID_LEN (R63, R171). -/
def IdOperand.isTooLong (id : IdOperand) : Bool :=
  Config.maxIdLen < id.len.toNat

/-- The identifier `ch[0 .. len-1]`; entries from index `len` on are ignored (R63). -/
def IdOperand.text (id : IdOperand) : Str :=
  id.ch.take id.len.toNat

/-- `code.kind` is `K_ABSENT` or `K_BLANK` (R121, R155). -/
def CodeOperand.isNone (code : CodeOperand) : Bool :=
  match code.kind with
  | .absent => true
  | .blank => true
  | .value => false
  | .ovf => false

/-- VALID26: the 26-bit value, or `none` for the exception `MalformedInput` (R120). The test is on the value, not on
the number of digits. -/
def CodeOperand.valid26 (code : CodeOperand) : Option Frame :=
  match code.kind with
  | .absent => none
  | .blank => none
  | .ovf => none
  | .value => if Config.frameLimit ≤ code.val.toNat then none else some (code.val.extractLsb' 0 26)

/-- The operand for an optional identifier: the length saturated at 255, the first ten characters, unused slots
zero (R23, R207; log entry 21). It also writes `"TEXT"` and `absent` of R75. -/
def IdOperand.ofText : Option Str → IdOperand
  | none => { present := false, len := 0#8, ch := List.replicate Config.nChars 0#8 }
  | some t =>
    { present := true
      len := BitVec.ofNat 8 (min t.length 255)
      ch := (t ++ List.replicate Config.nChars 0#8).take Config.nChars }

/-- The written operand `long(n)` (R75). -/
def IdOperand.long (n : BitVec 8) : IdOperand :=
  { present := true, len := n, ch := List.replicate Config.nChars 0#8 }

/-- The written operands `0xHEX`, `ovf(0xHEX)`, `absent` and `blank` (R75). -/
def CodeOperand.hex (v : BitVec 64) : CodeOperand := { kind := .value, val := v }

def CodeOperand.ovf (v : BitVec 64) : CodeOperand := { kind := .ovf, val := v }

def CodeOperand.absent : CodeOperand := { kind := .absent, val := 0#64 }

def CodeOperand.blank : CodeOperand := { kind := .blank, val := 0#64 }

/-- Remove the characters that satisfy `p` from both ends of a string, and from nowhere else. -/
def trimEnds (p : Byte → Bool) (s : Str) : Str :=
  ((s.dropWhile p).reverse.dropWhile p).reverse

end Sys2Proof
end

