-- ==== Sys2Proof/Machine/Ops.lean ====
section
/-!
DEFINITION. The named operations on the state: the pseudocode primitives of 00_scope.md R11 (`ok`, `absent`, `raise`,
`fatal`, `await`), which are also WGC's whole "exception entry" (60_exceptions.md R177: an error is a status in the
response and changes nothing else), and the moves of the host and of the digest unit (R20, R25, R201, R204).
-/
namespace Sys2Proof.Machine

/-- What a step answers. -/
abbrev Result := Host.Outcome State Fault Refusal

/-- The two error kinds (R170). -/
inductive ErrorKind where
  | inputTooLong
  | malformedInput
deriving DecidableEq, Repr

/-- The response that reports an error; it carries the status only (R171, R172, D19). -/
def ErrorKind.response : ErrorKind → Response
  | .inputTooLong => .tooLong
  | .malformedInput => .malformed

/-- Emit one response (R24, R45). -/
def State.emit (r : Response) (s : State) : State :=
  { s with rspPort := s.rspPort ++ [r] }

/-- Give PHASE a value (R21). -/
def State.setPhase (p : Phase) (s : State) : State :=
  { s with phase := p }

/-- `ok(fields)`: complete with `ST_OK`; PHASE <- IDLE (R11). -/
def ok (r : Response) (s : State) : Result :=
  .next ((s.setPhase .idle).emit r)

/-- `absent`: complete with `ST_ABSENT`; PHASE stays or becomes IDLE (R11, R174). -/
def absent (s : State) : Result :=
  .next ((s.setPhase .idle).emit .absent)

/-- `raise`: complete with the error's status; nothing is saved and PHASE is not written (R11, R177). -/
def raise (e : ErrorKind) (s : State) : Result :=
  .next (s.emit e.response)

/-- `fatal DigestUnavailable`: complete with `ST_FATAL_DIGEST`; PHASE <- FAULTED (R11, R173 (b)). -/
def fatal (s : State) : Result :=
  .next ((s.setPhase .faulted).emit .fatalDigest)

/-- The first half of `d <- await Digest(s)`: LATCH the identifier, send the request, PHASE <- WAIT_DIGEST
(R11, R100 step 3). The channel carries this request and no answer yet (R25). -/
def awaitDigest (t : Str) (s : State) : Result :=
  .next { s with phase := .waitDigest, latch := t, dreq := some t, dans := none }

/-- The second half: the answer is consumed, so the channel is empty (R25, R46), and LATCH is meaningless from
here on (R22, U7): it becomes a free value (log entry 7). -/
def State.closeChannel (s : State) : State :=
  { s with dreq := none, dans := none, latch := Config.freeLatch s.fresh, fresh := s.fresh + 1 }

/-- The host presents a command; it waits at the port until it is accepted (R204; log entry 4). -/
def State.present (w : CmdWord) (s : State) : State :=
  { s with cmdPort := s.cmdPort ++ [w] }

/-- The host reads the oldest unread response (R24); with none to read nothing happens (log entry 23). -/
def State.readResponse (s : State) : State :=
  { s with rspPort := s.rspPort.tail }

/-- How many issued commands have not received a response (R206): those held at the port, the `W26.ENC` that waits for
its digest, and those that a reset left without one. -/
def State.outstanding (s : State) : Nat :=
  s.cmdPort.length + (if s.phase = .waitDigest then 1 else 0) + s.unanswered

/-- Reset (R33, R200, R201): every port and the channel are empty, PHASE = IDLE, LATCH is unspecified (a free
value, log entry 7). An outstanding request is dropped by the digest unit too (log entry 11). The commands that it
drops, and those whose response it loses, stay issued and without a response (R206; log entry 25). -/
def State.assertReset (s : State) : State :=
  { s with
    phase := .idle
    latch := Config.freeLatch s.fresh
    cmdPort := []
    rspPort := []
    dreq := none
    dans := none
    fresh := s.fresh + 1
    unanswered := s.outstanding + s.rspPort.length }

/-- An answer arrives from the digest unit: it is discarded when PHASE is not WAIT_DIGEST (R46), and a request is
answered at most once (R207; log entry 10). -/
def State.answer (a : DigestAnswer) (s : State) : State :=
  if s.phase = .waitDigest ∧ s.dans = none then { s with dans := some a } else s

/-- The digest unit honours its contract: `dok.d` is `digest` of the request (R25). Without a request there is
nothing to answer. -/
def State.digestOk (s : State) : State :=
  match s.dreq with
  | none => s
  | some t => s.answer (.ok (Config.digest t))

/-- The digest unit answers "unavailable" (R173 (b)). -/
def State.digestFail (s : State) : State :=
  match s.dreq with
  | none => s
  | some _ => s.answer .fail

end Sys2Proof.Machine
end

