-- ==== Sys2Proof/Machine/Reserved.lean ====
section
/-!
DEFINITION. The nine reserved opcodes of 30_encoding.md R62: "a model must refuse such a command (give it no step and
no response)".
-/
namespace Sys2Proof.Machine

/-- No step and no response, by name (R62). -/
def refuseReserved (op : BitVec 4) (_ : State) : Result :=
  .refused (.reservedOpcode op)

/-- Opcode 0x5 (R62). -/
def execReserved5 (s : State) : Result := refuseReserved 0x5#4 s

/-- Opcode 0x6 (R62). -/
def execReserved6 (s : State) : Result := refuseReserved 0x6#4 s

/-- Opcode 0x7 (R62). -/
def execReserved7 (s : State) : Result := refuseReserved 0x7#4 s

/-- Opcode 0xA (R62). -/
def execReservedA (s : State) : Result := refuseReserved 0xA#4 s

/-- Opcode 0xB (R62). -/
def execReservedB (s : State) : Result := refuseReserved 0xB#4 s

/-- Opcode 0xC (R62). -/
def execReservedC (s : State) : Result := refuseReserved 0xC#4 s

/-- Opcode 0xD (R62). -/
def execReservedD (s : State) : Result := refuseReserved 0xD#4 s

/-- Opcode 0xE (R62). -/
def execReservedE (s : State) : Result := refuseReserved 0xE#4 s

/-- Opcode 0xF (R62). -/
def execReservedF (s : State) : Result := refuseReserved 0xF#4 s

end Sys2Proof.Machine
end

