-- ==== Sys2Proof/Machine/Wiegand26.lean ====
section
/-!
DEFINITION. The Wiegand26 half: the encoder's sub-blocks INJ24, PACK26 and frame assembly (40_w26_encode.md), the
decoder's SLICE26 and FCID (41_w26_decode.md), and the five operations of that format.
-/
namespace Sys2Proof.Machine

/-- INJ24: the last three of the 20 digest bytes, `d[17]` the most significant (R101, R41). -/
def inj24 (d : Digest) : Payload :=
  d[17] ++ d[18] ++ d[19]

/-- PACK26: the payload shifted left by one bit in 26 bits (R102). -/
def pack26 (p : Payload) : Frame :=
  p.setWidth 26 <<< 1

/-- Frame assembly: `F <- W | (PE << 25) | PO` (R105). -/
def assemble (w : Frame) : Frame :=
  w ||| ((evenPar w).setWidth 26 <<< 25) ||| (oddPar w).setWidth 26

/-- FCID: the decimal concatenation `fc * 100000 + idn`, in 25 bits (R123). -/
def fcidOf (fc : BitVec 8) (idn : BitVec 16) : BitVec 25 :=
  BitVec.ofNat 25 (fc.toNat * Config.fcidWeight + idn.toNat)

/-- SLICE26: the five fields of a 26-bit value; its two parity bits reach `hex` only (R122, R127). -/
def slice26 (b : Frame) : Wiegand26Result where
  hex := b.setWidth 28
  pay := b.extractLsb' 1 24
  fc := b.extractLsb' 17 8
  idn := b.extractLsb' 1 16
  fcid := fcidOf (b.extractLsb' 17 8) (b.extractLsb' 1 16)

/-- `W26.ENC`, steps 1 to 3: absent, too long, or LATCH the identifier and send the digest request (R100, R176). -/
def execW26Enc (id : IdOperand) (s : State) : Result :=
  if id.isAbsent then absent s
  else if id.isTooLong then raise .inputTooLong s
  else awaitDigest id.text s

/-- `W26.ENC`, step 4: the digest arrived; inject, pack, set the parities, and answer by self-decode (R100, R106). -/
def completeW26Enc (d : Digest) (s : State) : Result :=
  ok (.okFrame (slice26 (assemble (pack26 (inj24 d))))) s.closeChannel

/-- `W26.ENC`, step 3 on `dfail` (R100, R173 (b)). -/
def failW26Enc (s : State) : Result :=
  fatal s.closeChannel

/-- `W26.DEC` (R121). -/
def execW26Dec (code : CodeOperand) (s : State) : Result :=
  if code.isNone then absent s
  else
    match code.valid26 with
    | none => raise .malformedInput s
    | some b => ok (.okFrame (slice26 b)) s

/-- What the three accessors share: the validation, then one field zero-extended to 24 bits (R120, R124). -/
def readField (f : Frame → BitVec 24) (code : CodeOperand) (s : State) : Result :=
  match code.valid26 with
  | none => raise .malformedInput s
  | some b => ok (.okAcc (f b)) s

/-- `W26.RDFC` (R124). -/
def execW26Rdfc (code : CodeOperand) (s : State) : Result :=
  readField (fun b => (b.extractLsb' 17 8).setWidth 24) code s

/-- `W26.RDID` (R125). -/
def execW26Rdid (code : CodeOperand) (s : State) : Result :=
  readField (fun b => (b.extractLsb' 1 16).setWidth 24) code s

/-- `W26.RDPAY` (R126). -/
def execW26Rdpay (code : CodeOperand) (s : State) : Result :=
  readField (fun b => b.extractLsb' 1 24) code s

end Sys2Proof.Machine
end

