-- ==== Sys2Proof/Machine/Alphabet.lean ====
section
/-!
DEFINITION. The two constant tables of 10_state.md R30, with the contents of 30_encoding.md R69 and R70.
-/
namespace Sys2Proof.Machine

/-- ALPHA: a character code to its 6-bit value, total on all 256 codes (R69). -/
def alpha (c : Byte) : Group :=
  if c = Config.space then 0#6
  else if 0x30 ≤ c.toNat ∧ c.toNat ≤ 0x39 then BitVec.ofNat 6 (c.toNat - 0x30 + 16)
  else if 0x41 ≤ c.toNat ∧ c.toNat ≤ 0x5A then BitVec.ofNat 6 (c.toNat - 0x41 + 26)
  else Config.alphaUnknown

/-- REV: a group value to its character code, total on all 64 values (R70). -/
def rev (g : Group) : Byte :=
  if g = 0#6 then Config.space
  else if 16 ≤ g.toNat ∧ g.toNat ≤ 25 then BitVec.ofNat 8 (0x30 + (g.toNat - 16))
  else if 26 ≤ g.toNat ∧ g.toNat ≤ 51 then BitVec.ofNat 8 (0x41 + (g.toNat - 26))
  else Config.unknownChar

end Sys2Proof.Machine
end

