-- ==== Sys2Proof/Machine/Wiegand64.lean ====
section
/-!
DEFINITION. The Wiegand64 half: PAD10, MAP, PACK64 (42_w64_encode.md), UNPACK64, the reverse map, TRIM
(43_w64_decode.md), and the two operations of that format.
-/
namespace Sys2Proof.Machine

/-- PAD10: pad with spaces on the left to ten characters (R141). -/
def pad10 (t : Str) : Str :=
  List.replicate (Config.nChars - t.length) Config.space ++ t

/-- PACK64: the groups behind the header, the first group the most significant (R143, R144). -/
def pack64 (g : List Group) : BitVec 64 :=
  g.foldl (fun acc x => acc <<< 6 ||| x.setWidth 64) (Config.header.setWidth 64)

/-- UNPACK64: group `i` is `V[59-6i : 54-6i]`; the header is not read (R156, R159). -/
def unpack64 (v : BitVec 64) : List Group :=
  (List.range Config.nChars).map fun i => v.extractLsb' (54 - 6 * i) 6

/-- TRIM's text: the spaces at both ends removed (R158). -/
def trimText (raw : Str) : Str :=
  trimEnds (· == Config.space) raw

/-- The text left-aligned in its ten slots, the rest spaces (R24, R158). -/
def alignText (t : Str) : Str :=
  t ++ List.replicate (Config.nChars - t.length) Config.space

/-- The `ST_OK` response of `W64.DEC` for the word `V` (R155 steps 3 to 6). -/
def textResponse (v : BitVec 64) : Response :=
  let raw := (unpack64 v).map rev
  .okText raw (alignText (trimText raw)) (BitVec.ofNat 4 (trimText raw).length)

/-- `W64.ENC` (R140). -/
def execW64Enc (id : IdOperand) (s : State) : Result :=
  if id.isAbsent then absent s
  else if id.isTooLong then raise .inputTooLong s
  else ok (.okCode64 (pack64 ((pad10 id.text).map alpha))) s

/-- `W64.DEC`: never fails; `K_VALUE` and `K_OVF` alike (R155, R159). -/
def execW64Dec (code : CodeOperand) (s : State) : Result :=
  if code.isNone then absent s else ok (textResponse code.val) s

end Sys2Proof.Machine
end

