-- ==== Sys2Proof/Machine/Dispatch.lean ====
section
/-!
DEFINITION. One arm per constructor of `Instr`: what the core does with a command it has accepted (R61, R62). Whether
a command is accepted is the sequencer's matter (R204; log entry 18).
-/
namespace Sys2Proof.Machine

def exec (i : Instr) (s : State) : Host.Outcome State Fault Refusal :=
  match i with
  | .w26Enc id => Sys2Proof.Machine.execW26Enc id s
  | .w26Dec code => Sys2Proof.Machine.execW26Dec code s
  | .w26Rdfc code => Sys2Proof.Machine.execW26Rdfc code s
  | .w26Rdid code => Sys2Proof.Machine.execW26Rdid code s
  | .w26Rdpay code => Sys2Proof.Machine.execW26Rdpay code s
  | .w64Enc id => Sys2Proof.Machine.execW64Enc id s
  | .w64Dec code => Sys2Proof.Machine.execW64Dec code s
  | .reserved5 => Sys2Proof.Machine.execReserved5 s
  | .reserved6 => Sys2Proof.Machine.execReserved6 s
  | .reserved7 => Sys2Proof.Machine.execReserved7 s
  | .reservedA => Sys2Proof.Machine.execReservedA s
  | .reservedB => Sys2Proof.Machine.execReservedB s
  | .reservedC => Sys2Proof.Machine.execReservedC s
  | .reservedD => Sys2Proof.Machine.execReservedD s
  | .reservedE => Sys2Proof.Machine.execReservedE s
  | .reservedF => Sys2Proof.Machine.execReservedF s

end Sys2Proof.Machine
end

