-- ==== Sys2Proof/Decode.lean ====
section
/-!
DEFINITION. The command decoder and encoder of 30_encoding.md R60, R61, R62, R79: total on every flat word, rejecting
a word that is no command by name.
-/
namespace Sys2Proof

/-- `op`, the top 4 bits of the word (R60). -/
def CmdWord.op (w : CmdWord) : BitVec 4 :=
  w.bits.extractLsb' (w.len - Config.opLen) 4

/-- The numbers of `code.kind` (R23, R64). -/
def Kind.ofBits : BitVec 2 → Kind
  | 0#2 => .absent
  | 1#2 => .blank
  | 2#2 => .value
  | 3#2 => .ovf

/-- The inverse of `Kind.ofBits`. -/
def Kind.toBits : Kind → BitVec 2
  | .absent => 0#2
  | .blank => 1#2
  | .value => 2#2
  | .ovf => 3#2

/-- The fields of a format I word (R60). -/
def decodeId (w : BitVec 93) : IdOperand where
  present := w.getLsbD 88
  len := w.extractLsb' 80 8
  ch := [w.extractLsb' 72 8, w.extractLsb' 64 8, w.extractLsb' 56 8, w.extractLsb' 48 8, w.extractLsb' 40 8,
    w.extractLsb' 32 8, w.extractLsb' 24 8, w.extractLsb' 16 8, w.extractLsb' 8 8, w.extractLsb' 0 8]

/-- The fields of a format C word (R60). -/
def decodeCode (w : BitVec 70) : CodeOperand where
  kind := Kind.ofBits (w.extractLsb' 64 2)
  val := w.extractLsb' 0 64

/-- Read the word as format I, which it is only if it has that format's length (R78). -/
def formatI (w : CmdWord) (mk : IdOperand → Instr) : Except Reject Instr :=
  if w.len = Config.formatILen then .ok (mk (decodeId (w.bits.setWidth 93)))
  else .error (.wrongLength w.op w.len)

/-- Read the word as format C, which it is only if it has that format's length (R78). -/
def formatC (w : CmdWord) (mk : CodeOperand → Instr) : Except Reject Instr :=
  if w.len = Config.formatCLen then .ok (mk (decodeCode (w.bits.setWidth 70)))
  else .error (.wrongLength w.op w.len)

/-- The opcode map (R61, R62) by `op[3]`, the format family, and `op[2:0]`, the function (R60). A reserved opcode has
no format, so it is told from `op` alone (R79). -/
def decodeOp (w : CmdWord) (family : Bool) (fn : BitVec 3) : Except Reject Instr :=
  match family, fn with
  | false, 0#3 => formatI w .w26Enc
  | false, 1#3 => formatC w .w26Dec
  | false, 2#3 => formatC w .w26Rdfc
  | false, 3#3 => formatC w .w26Rdid
  | false, 4#3 => formatC w .w26Rdpay
  | false, 5#3 => .ok .reserved5
  | false, 6#3 => .ok .reserved6
  | false, 7#3 => .ok .reserved7
  | true, 0#3 => formatI w .w64Enc
  | true, 1#3 => formatC w .w64Dec
  | true, 2#3 => .ok .reservedA
  | true, 3#3 => .ok .reservedB
  | true, 4#3 => .ok .reservedC
  | true, 5#3 => .ok .reservedD
  | true, 6#3 => .ok .reservedE
  | true, 7#3 => .ok .reservedF

/-- Decode the word on the command port (R79). -/
def decode (w : CmdWord) : Except Reject Instr :=
  if w.len < Config.opLen then .error (.tooShort w.len)
  else decodeOp w (w.op.getLsbD 3) (w.op.extractLsb' 0 3)

/-- A format I word from its opcode and operand, most significant field first (R60). -/
def encodeId (op : BitVec 4) (id : IdOperand) : CmdWord :=
  ⟨93, (op ++ BitVec.ofBool id.present ++ id.len ++ id.ch.getD 0 0 ++ id.ch.getD 1 0 ++ id.ch.getD 2 0
    ++ id.ch.getD 3 0 ++ id.ch.getD 4 0 ++ id.ch.getD 5 0 ++ id.ch.getD 6 0 ++ id.ch.getD 7 0
    ++ id.ch.getD 8 0 ++ id.ch.getD 9 0).setWidth 93⟩

/-- A format C word from its opcode and operand, most significant field first (R60). -/
def encodeCode (op : BitVec 4) (code : CodeOperand) : CmdWord :=
  ⟨70, (op ++ code.kind.toBits ++ code.val).setWidth 70⟩

/-- A reserved opcode is its `op` alone (R79). -/
def encodeReserved (op : BitVec 4) : CmdWord :=
  ⟨4, op⟩

/-- The opcode of each row of the table (R61, R62). -/
def Instr.opcode : Instr → BitVec 4
  | .w26Enc _ => 0x0#4
  | .w26Dec _ => 0x1#4
  | .w26Rdfc _ => 0x2#4
  | .w26Rdid _ => 0x3#4
  | .w26Rdpay _ => 0x4#4
  | .w64Enc _ => 0x8#4
  | .w64Dec _ => 0x9#4
  | .reserved5 => 0x5#4
  | .reserved6 => 0x6#4
  | .reserved7 => 0x7#4
  | .reservedA => 0xA#4
  | .reservedB => 0xB#4
  | .reservedC => 0xC#4
  | .reservedD => 0xD#4
  | .reservedE => 0xE#4
  | .reservedF => 0xF#4

/-- The flat word of a well-formed instruction (R60, R61, R79). -/
def encode : Instr → CmdWord
  | .w26Enc id => encodeId 0x0#4 id
  | .w26Dec code => encodeCode 0x1#4 code
  | .w26Rdfc code => encodeCode 0x2#4 code
  | .w26Rdid code => encodeCode 0x3#4 code
  | .w26Rdpay code => encodeCode 0x4#4 code
  | .w64Enc id => encodeId 0x8#4 id
  | .w64Dec code => encodeCode 0x9#4 code
  | .reserved5 => encodeReserved 0x5#4
  | .reserved6 => encodeReserved 0x6#4
  | .reserved7 => encodeReserved 0x7#4
  | .reservedA => encodeReserved 0xA#4
  | .reservedB => encodeReserved 0xB#4
  | .reservedC => encodeReserved 0xC#4
  | .reservedD => encodeReserved 0xD#4
  | .reservedE => encodeReserved 0xE#4
  | .reservedF => encodeReserved 0xF#4

/-- The command word of an opcode-table row that is given in whole bytes: the bits of the row's own length, so the
padding above them, which is "not part of the command" (95_test_vectors.md section 7), is dropped (log entry 1). -/
def tableWord (nbits w : Nat) : CmdWord :=
  if nbits ≤ 8 then ⟨4, BitVec.ofNat 4 w⟩
  else if nbits ≤ 72 then ⟨70, BitVec.ofNat 70 w⟩
  else ⟨93, BitVec.ofNat 93 w⟩

/-- The instruction the decoder reads from an opcode-table row's word. -/
def decodeTableWord (nbits w : Nat) : Option Instr :=
  (decode (tableWord nbits w)).toOption

end Sys2Proof
end

