-- ==== Sys2Proof/Machine/HostText.lean ====
section
/-!
DEFINITION. The host's side of the text interface: `hex_render` and `hex_parse` (30_encoding.md R72, R73), the
normaliser's contract (70_reset_and_hazards.md R208), and the correspondence with the source's seven functions (R76).
-/
namespace Sys2Proof.Machine

/-- The hex digit of a value below 16, upper case (R72). -/
def hexChar (n : Nat) : Byte :=
  if n < 10 then BitVec.ofNat 8 (0x30 + n) else BitVec.ofNat 8 (0x41 + (n - 10))

/-- `hex_render(v, n)`: exactly `n` digits, most significant first (R72). -/
def hexRender (v n : Nat) : Str :=
  (List.range n).map fun i => hexChar (v / 16 ^ (n - 1 - i) % 16)

/-- The value of a hex digit of either letter case (R73, D26). -/
def hexDigit? (c : Byte) : Option Nat :=
  if 0x30 ≤ c.toNat ∧ c.toNat ≤ 0x39 then some (c.toNat - 0x30)
  else if 0x41 ≤ c.toNat ∧ c.toNat ≤ 0x46 then some (c.toNat - 0x41 + 10)
  else if 0x61 ≤ c.toNat ∧ c.toNat ≤ 0x66 then some (c.toNat - 0x61 + 10)
  else none

/-- The number a text of hex digits spells, most significant digit first (R73). -/
def hexNumber (t : Str) : Nat :=
  t.foldl (fun acc c => acc * 16 + (hexDigit? c).getD 0) 0

/-- White space: the space character; no printable character; of the rest the source does not say (N14; log
entry 15). -/
def isWhite (c : Byte) : Bool :=
  c == Config.space || (!(0x21 ≤ c.toNat && c.toNat ≤ 0x7E) && Config.freeWhite c)

/-- `hex_parse`: a code operand, or `none` for a text it does not define (R73, U8). -/
def hexParse : Option Str → Option CodeOperand
  | none => some CodeOperand.absent
  | some t =>
    if t.all isWhite then some CodeOperand.blank
    else if t.all fun c => (hexDigit? c).isSome then
      some
        { kind := if hexNumber t < 2 ^ 64 then .value else .ovf
          val := BitVec.ofNat 64 (hexNumber t) }
    else none

/-- Upper case: the ASCII letters; a code from 0x80 up becomes what the source does not say (N14; log entry 16). -/
def upper (c : Byte) : Str :=
  if 0x61 ≤ c.toNat ∧ c.toNat ≤ 0x7A then [c - 0x20#8]
  else if c.toNat < 0x80 then [c]
  else Config.freeUpper c

/-- `A`-`Z` or `0`-`9` (R208). -/
def isAlnum (c : Byte) : Bool :=
  (0x30 ≤ c.toNat && c.toNat ≤ 0x39) || (0x41 ≤ c.toNat && c.toNat ≤ 0x5A)

/-- The normaliser's contract: trim, upper-case, keep `A`-`Z` and `0`-`9`, absent if nothing is left (R208). -/
def normalise : Option Str → Option Str
  | none => none
  | some t =>
    let r := ((trimEnds isWhite t).flatMap upper).filter isAlnum
    if r = [] then none else some r

/-- The command that stands for a call of one of the source's functions on an optional text; `none` where
`hex_parse` does not define the text (R76). -/
def hostCall (f : SourceOp) (t : Option Str) : Option Instr :=
  match f with
  | .encode26 => some (.w26Enc (IdOperand.ofText (normalise t)))
  | .decode26 => (hexParse t).map .w26Dec
  | .readFacilityCodeFrom => (hexParse t).map .w26Rdfc
  | .readIdNumberFrom => (hexParse t).map .w26Rdid
  | .readDecimalPayload => (hexParse t).map .w26Rdpay
  | .encode64 => some (.w64Enc (IdOperand.ofText (normalise t)))
  | .decode64 => (hexParse t).map .w64Dec

/-- Wiegand26Result.hexadecimal: the 7-digit text of `rsp.hex` (R67, R72, R76). -/
def Wiegand26Result.hexadecimal (r : Wiegand26Result) : Str :=
  hexRender r.hex.toNat Config.hex26Digits

/-- The text a response hands to the caller of the source's function, where its result is a text (R76, R145). -/
def Response.text? : Response → Option Str
  | .okFrame r => some r.hexadecimal
  | .okAcc _ => none
  | .okCode64 c => some (hexRender c.toNat Config.hex64Digits)
  | .okText _ txt tlen => some (txt.take tlen.toNat)
  | .absent => none
  | .tooLong => none
  | .malformed => none
  | .fatalDigest => none

/-- The host calls a source function: it presents the command, or is refused where the text has no defined
operand (R73, R76, R185). -/
def callOp (f : SourceOp) (t : Option Str) (s : State) : Result :=
  match hostCall f t with
  | none => .refused .undefinedText
  | some i => .next (s.present (encode i))

end Sys2Proof.Machine
end

