-- ==== Sys2Proof/Machine/Sequencer.lean ====
section
/-!
DEFINITION. The operation sequencer (00_scope.md R3): when the core accepts a command and when it consumes a digest
answer (R21, R45, R46, R204), and the moves of the other two agents (R20).
-/
namespace Sys2Proof.Machine

/-- The core takes the word off the port, decodes it and runs it; a word that is no command is refused by name. -/
def accept (w : CmdWord) (s : State) : Result :=
  match decode w with
  | .error r => .refused (.notACommand r)
  | .ok i => exec i s

/-- One turn of the core. IDLE: accept the command at the port, or wait for one. WAIT_DIGEST: consume the answer, or
go on waiting, with any command held. FAULTED: nothing is accepted until reset (R21, R173, R204). -/
def coreTurn (s : State) : Result :=
  match s.phase with
  | .idle =>
    match s.cmdPort with
    | [] => .next s
    | w :: rest => accept w { s with cmdPort := rest }
  | .waitDigest =>
    match s.dans with
    | none => .next s
    | some (.ok d) => completeW26Enc d s
    | some .fail => failW26Enc s
  | .faulted => .next s

/-- One move of an agent (R20). -/
def move (m : Move) (s : State) : Result :=
  match m with
  | .core => coreTurn s
  | .present w => .next (s.present w)
  | .call f t => callOp f t s
  | .readResponse => .next s.readResponse
  | .assertReset => .next s.assertReset
  | .digestOk => .next s.digestOk
  | .digestFail => .next s.digestFail

/-- Place a command as the next one the core accepts, and give the core the next turn. -/
def placeCommand (w : CmdWord) (s : State) : State :=
  { s with phase := .idle, cmdPort := w :: s.cmdPort, agenda := .core :: s.agenda }

end Sys2Proof.Machine
end

