-- ==== Sys2Proof/Safety.lean ====
section
/-!
DEFINITION. What the spec calls gone wrong and ended well (60_exceptions.md R185, 70_reset_and_hazards.md R206), and
what holds of every response and every reachable state.
-/
namespace Sys2Proof.Machine

/-- FAULTED: "a fault state that is never a good final state" (R173, R185, U3). -/
abbrev State.goneWrong (s : State) : Prop :=
  s.phase = .faulted

/-- Waiting for an answer that is not there and that no move still to come brings, reset included: the hang of
R173 (c), R185 and U4. -/
abbrev State.hung (s : State) : Prop :=
  s.phase = .waitDigest ∧ s.dans = none ∧
    ∀ m ∈ s.agenda, m ≠ .digestOk ∧ m ≠ .digestFail ∧ m ≠ .assertReset

/-- The host issues a command by this move (R23, R76). -/
def Move.issues : Move → Bool
  | .core => false
  | .present _ => true
  | .call _ _ => true
  | .readResponse => false
  | .assertReset => false
  | .digestOk => false
  | .digestFail => false

/-- The run has ended well: no command is still to be issued, every issued command has been accepted and has received
its response, and PHASE = IDLE (R206). A command that a reset dropped never receives one, so a run in which that
happened has not ended well (log entry 25). -/
abbrev State.endedWell (s : State) : Prop :=
  s.phase = .idle ∧ s.outstanding = 0 ∧ ∀ m ∈ s.agenda, m.issues = false

/-- A character that `W64.DEC` can produce: space, `0`-`9`, `A`-`Z` or `?` (R157). -/
abbrev isDecodedChar (c : Byte) : Prop :=
  c = 0x20#8 ∨ (0x30 ≤ c.toNat ∧ c.toNat ≤ 0x39) ∨ (0x41 ≤ c.toNat ∧ c.toNat ≤ 0x5A) ∨ c = 0x3F#8

/-- A group value that `W64.ENC` can produce: 0, 16 to 51, or 63 (R69). -/
abbrev isEncodedGroup (g : Nat) : Prop :=
  g = 0 ∨ (16 ≤ g ∧ g ≤ 51) ∨ g = 63

/-- The fields of a response are as its operation leaves them: the ranges of R128, the header of R144 and the
groups of R69, the text slots of R24 and R158. -/
abbrev Response.Wf : Response → Prop
  | .okFrame r =>
    r.hex.toNat < 2 ^ 26 ∧ r.pay.toNat = r.hex.toNat / 2 % 2 ^ 24 ∧ r.fc.toNat = r.pay.toNat / 65536 ∧
      r.idn.toNat = r.pay.toNat % 65536 ∧ r.fcid.toNat = r.fc.toNat * 100000 + r.idn.toNat
  | .okAcc _ => True
  | .okCode64 c => c.toNat / 2 ^ 60 = 6 ∧ ∀ i ∈ List.range 10, isEncodedGroup (c.toNat / 2 ^ (54 - 6 * i) % 64)
  | .okText raw txt tlen =>
    raw.length = 10 ∧ txt.length = 10 ∧ tlen.toNat ≤ 10 ∧ (∀ c ∈ raw, isDecodedChar c) ∧
      (∀ c ∈ txt.drop tlen.toNat, c = 0x20#8)
  | .absent => True
  | .tooLong => True
  | .malformed => True
  | .fatalDigest => True

/-- The invariant of the machine: while PHASE = WAIT_DIGEST the channel carries the request for LATCH, of 1 to 10
characters (R22, R25); at any other time it carries nothing (R25, R46); an answer of 20 bytes is the digest of LATCH
(R25); and every response at the port is well formed. -/
structure State.Inv (s : State) : Prop where
  waiting : s.phase = .waitDigest → s.dreq = some s.latch ∧ 1 ≤ s.latch.length ∧ s.latch.length ≤ 10
  quiet : s.phase ≠ .waitDigest → s.dreq = none ∧ s.dans = none
  contract : ∀ d, s.dans = some (.ok d) → d = Config.digest s.latch
  responses : ∀ r ∈ s.rspPort, r.Wf

end Sys2Proof.Machine
end

