-- ==== Sys2Proof/Certificates/Slice0/Obligations.lean ====
section
/-!
DEFINITION. The statements about WGC, each from the rules or sections of spec/ that its docstring names. A bit field is
written as a quotient and a remainder of the value, so that a statement does not repeat the model's own slices.
-/
open Sys2Proof Sys2Proof.Machine

/-! ### Encoding (30_encoding.md section 1) -/

/-- For every well-formed instruction, decoding its flat word gives the instruction back, with every operand at every
value the encoding admits (30_encoding.md section 1). -/
def Obligations.EncodeThenDecodeGivesBack : Prop :=
  ∀ i : Instr, i.wf = true → decode (encode i) = .ok i

/-- The other direction: a word that decodes to one of the seven operations is that operation's encoding, so no bit of
it is dropped (30_encoding.md section 1). -/
def Obligations.DecodeThenEncodeGivesBack : Prop :=
  ∀ (w : CmdWord) (i : Instr), decode w = .ok i → i.isReserved = false → encode i = w

/-- Decoding is total: a defined opcode at its format's one length and a reserved opcode at any length decode to a
well-formed instruction with that opcode; a defined opcode at another length is rejected by name. That last clause, and
that a word of under four bits is rejected, are the model's choice, log entry 2 (30_encoding.md section 1). -/
def Obligations.DecodeIsTotalByOpcodeAndLength : Prop :=
  ∀ w : CmdWord,
    (w.len < 4 → decode w = .error (.tooShort w.len)) ∧
    (4 ≤ w.len → w.op ∈ [0x0#4, 0x8#4] → w.len = 93 →
      ∃ i, decode w = .ok i ∧ i.wf = true ∧ i.isReserved = false ∧ i.opcode = w.op) ∧
    (4 ≤ w.len → w.op ∈ [0x1#4, 0x2#4, 0x3#4, 0x4#4, 0x9#4] → w.len = 70 →
      ∃ i, decode w = .ok i ∧ i.wf = true ∧ i.isReserved = false ∧ i.opcode = w.op) ∧
    (4 ≤ w.len → w.op ∈ [0x5#4, 0x6#4, 0x7#4, 0xA#4, 0xB#4, 0xC#4, 0xD#4, 0xE#4, 0xF#4] →
      ∃ i, decode w = .ok i ∧ i.wf = true ∧ i.isReserved = true ∧ i.opcode = w.op) ∧
    (4 ≤ w.len → w.op ∈ [0x0#4, 0x8#4] → w.len ≠ 93 → decode w = .error (.wrongLength w.op w.len)) ∧
    (4 ≤ w.len → w.op ∈ [0x1#4, 0x2#4, 0x3#4, 0x4#4, 0x9#4] → w.len ≠ 70 →
      decode w = .error (.wrongLength w.op w.len))

/-- R60 and R61: every field of both formats is read from the bit positions of R60's tables, and the seven defined
opcodes select the operations of R61; the opcode is the top 4 bits, its own top bit is 1 exactly for the Wiegand64
operations, and each format has one length. -/
def Obligations.DecodeReadsFieldsAtTheirPositions : Prop :=
  (∀ v : BitVec 93,
    let id : IdOperand :=
      { present := v.toNat / 2 ^ 88 % 2 == 1
        len := BitVec.ofNat 8 (v.toNat / 2 ^ 80)
        ch := (List.range 10).map fun i => BitVec.ofNat 8 (v.toNat / 2 ^ (72 - 8 * i)) }
    (v.toNat / 2 ^ 89 = 0 → decode ⟨93, v⟩ = .ok (.w26Enc id)) ∧
    (v.toNat / 2 ^ 89 = 8 → decode ⟨93, v⟩ = .ok (.w64Enc id))) ∧
  (∀ v : BitVec 70,
    let code : CodeOperand :=
      { kind := [Kind.absent, Kind.blank, Kind.value, Kind.ovf].getD (v.toNat / 2 ^ 64 % 4) .absent
        val := BitVec.ofNat 64 v.toNat }
    (v.toNat / 2 ^ 66 = 1 → decode ⟨70, v⟩ = .ok (.w26Dec code)) ∧
    (v.toNat / 2 ^ 66 = 2 → decode ⟨70, v⟩ = .ok (.w26Rdfc code)) ∧
    (v.toNat / 2 ^ 66 = 3 → decode ⟨70, v⟩ = .ok (.w26Rdid code)) ∧
    (v.toNat / 2 ^ 66 = 4 → decode ⟨70, v⟩ = .ok (.w26Rdpay code)) ∧
    (v.toNat / 2 ^ 66 = 9 → decode ⟨70, v⟩ = .ok (.w64Dec code))) ∧
  (∀ (w : CmdWord) (i : Instr), decode w = .ok i → i.isReserved = false →
    i.opcode.toNat = w.bits.toNat / 2 ^ (w.len - 4) % 16 ∧
    (8 ≤ i.opcode.toNat ↔ (∃ id, i = .w64Enc id) ∨ ∃ code, i = .w64Dec code) ∧
    ((∃ id, i = .w26Enc id ∨ i = .w64Enc id) → w.len = 93) ∧
    ((¬∃ id, i = .w26Enc id ∨ i = .w64Enc id) → w.len = 70))

/-- Eight words of the programs P1 to P3, as 95_test_vectors.md section 7 writes them: each decodes to the command
written beside it there. The ninth is the reserved opcode 0xA of 30_encoding.md section 1, given as a byte: that such a
byte is cut to the 4 bits of the opcode is the model's choice, log entry 1. -/
def Obligations.SampleWordsDecode : Prop :=
  decodeTableWord 96 0x010731574656333835000000
      = some (.w26Enc ⟨true, 7, [0x31, 0x57, 0x46, 0x56, 0x33, 0x38, 0x35, 0, 0, 0]⟩) ∧
  decodeTableWord 72 0x060000000001A98B4B = some (.w26Dec ⟨.value, 0x1A98B4B⟩) ∧
  decodeTableWord 72 0x0A0000000001A98B4B = some (.w26Rdfc ⟨.value, 0x1A98B4B⟩) ∧
  decodeTableWord 72 0x0E0000000001A98B4B = some (.w26Rdid ⟨.value, 0x1A98B4B⟩) ∧
  decodeTableWord 72 0x120000000001A98B4B = some (.w26Rdpay ⟨.value, 0x1A98B4B⟩) ∧
  decodeTableWord 96 0x110A415A4552545955494F50
      = some (.w64Enc ⟨true, 10, [0x41, 0x5A, 0x45, 0x52, 0x54, 0x59, 0x55, 0x49, 0x4F, 0x50]⟩) ∧
  decodeTableWord 72 0x2666B37ABB72BA2A29 = some (.w64Dec ⟨.value, 0x66B37ABB72BA2A29⟩) ∧
  decodeTableWord 72 0x050000000000000000 = some (.w26Dec ⟨.blank, 0⟩) ∧
  decodeTableWord 8 0xA = some .reservedA

/-! ### The Wiegand26 encoder (40_w26_encode.md) -/

/-- R101 and R102: the payload is the last three digest bytes, the 17th the most significant, and the packer shifts it
left by one bit into 26 bits, with bits 25 and 0 zero. -/
def Obligations.PayloadIsTheLastThreeBytesShifted : Prop :=
  (∀ d : Digest, (inj24 d).toNat = d[17].toNat * 65536 + d[18].toNat * 256 + d[19].toNat) ∧
  (∀ p : Payload, (pack26 p).toNat = 2 * p.toNat ∧ (pack26 p).getLsbD 25 = false ∧ (pack26 p).getLsbD 0 = false)

/-- R103 and R104: the even-parity bit is the parity of frame bits 24 to 12, which hold payload bits 23 to 11, and the
odd-parity bit the complement of the parity of frame bits 11 to 0, which hold payload bits 10 to 0; setting one of the
two bits does not change the other. -/
def Obligations.ParityBitsCountThePayload : Prop :=
  (∀ w : Frame,
    (evenPar w).toNat = ((List.range 13).countP fun k => w.getLsbD (12 + k)) % 2 ∧
    (oddPar w).toNat = 1 - ((List.range 12).countP fun k => w.getLsbD k) % 2 ∧
    oddPar (w ||| (evenPar w).setWidth 26 <<< 25) = oddPar w ∧
    evenPar (w ||| (oddPar w).setWidth 26) = evenPar w) ∧
  ∀ p : Payload,
    (evenPar (pack26 p)).toNat = ((List.range 13).countP fun k => p.getLsbD (11 + k)) % 2 ∧
    (oddPar (pack26 p)).toNat = 1 - ((List.range 11).countP fun k => p.getLsbD k) % 2

/-- R105: the frame is the even-parity bit, the payload and the odd-parity bit, from the top; the response's `hex` is
the same number, and its text is that number in seven digits. -/
def Obligations.FrameIsParityPayloadParity : Prop :=
  ∀ p : Payload,
    (assemble (pack26 p)).toNat
      = (evenPar (pack26 p)).toNat * 2 ^ 25 + p.toNat * 2 + (oddPar (pack26 p)).toNat ∧
    (assemble (pack26 p)).toNat < 2 ^ 26 ∧
    (slice26 (assemble (pack26 p))).hex.toNat = (assemble (pack26 p)).toNat ∧
    (slice26 (assemble (pack26 p))).hexadecimal = hexRender (assemble (pack26 p)).toNat 7

/-- The parity laws, which the spec derives (40_w26_encode.md section 3, "Parity laws of every encoded frame"): bits 25
to 12 of an encoded frame hold an even number of ones and bits 11 to 0 an odd number. -/
def Obligations.EncodedFrameParityLaws : Prop :=
  ∀ p : Payload,
    ((List.range 14).countP fun k => (assemble (pack26 p)).getLsbD (12 + k)) % 2 = 0 ∧
    ((List.range 12).countP fun k => (assemble (pack26 p)).getLsbD k) % 2 = 1

/-- `W26.ENC` of an identifier of 1 to 10 characters latches it, sends it as the digest request and waits: nothing else
changes, and no response is emitted yet (40_w26_encode.md section 1, step 3). Completion of `w26Enc`. -/
def Obligations.W26EncSendsTheDigestRequest : Prop :=
  ∀ (id : IdOperand) (s : State), id.present = true → 1 ≤ id.len.toNat → id.len.toNat ≤ 10 →
    exec (.w26Enc id) s
      = .next { s with
          phase := .waitDigest
          latch := id.ch.take id.len.toNat
          dreq := some (id.ch.take id.len.toNat)
          dans := none }

/-- When the digest has arrived the pending `W26.ENC` answers, in one turn of the core, with the fields in the closed
form of 40_w26_encode.md section 2, and PHASE returns to IDLE; the ports' other contents stay, and the channel is empty
(40_w26_encode.md sections 1 and 2, 20_memory.md section 4). -/
def Obligations.W26EncAnswersFromTheDigest : Prop :=
  ∀ (s : State) (d : Digest), s.phase = .waitDigest → s.dans = some (.ok d) →
    ∃ (t : State) (r : Wiegand26Result) (p : Payload),
      p.toNat = d[17].toNat * 65536 + d[18].toNat * 256 + d[19].toNat ∧
      coreTurn s = .next t ∧
      t.rspPort = s.rspPort ++ [.okFrame r] ∧
      r.hex.toNat
        = ((List.range 13).countP fun k => p.getLsbD (11 + k)) % 2 * 2 ^ 25 + p.toNat * 2
          + (1 - ((List.range 11).countP fun k => p.getLsbD k) % 2) ∧
      r.pay = p ∧ r.fc.toNat = p.toNat / 65536 ∧ r.idn.toNat = p.toNat % 65536 ∧
      r.fcid.toNat = p.toNat / 65536 * 100000 + p.toNat % 65536 ∧
      t.phase = .idle ∧ t.dreq = none ∧ t.dans = none ∧ t.cmdPort = s.cmdPort ∧ t.agenda = s.agenda

/-- When the digest unit answers "unavailable" the core emits the fatal status, with STAT = 11, and PHASE is FAULTED
(60_exceptions.md section 1, the digest fault, case (b)). -/
def Obligations.W26EncFaultsWhenDigestUnavailable : Prop :=
  ∀ s : State, s.phase = .waitDigest → s.dans = some .fail →
    ∃ t : State, coreTurn s = .next t ∧ t.rspPort = s.rspPort ++ [.fatalDigest] ∧
      Response.fatalDigest.status = 4#3 ∧ t.phase = .faulted ∧ t.stat = 0b11#2 ∧
      t.dreq = none ∧ t.dans = none ∧ t.cmdPort = s.cmdPort ∧ t.agenda = s.agenda

/-- The consistency law, which the spec derives (40_w26_encode.md section 3): decoding the frame that `W26.ENC`
answers gives, in whatever state the decoder runs, the same five fields. -/
def Obligations.DecodeOfEncodedFrameAgrees : Prop :=
  ∀ (s u : State) (d : Digest), s.phase = .waitDigest → s.dans = some (.ok d) →
    ∃ (t : State) (r : Wiegand26Result),
      coreTurn s = .next t ∧ t.rspPort = s.rspPort ++ [.okFrame r] ∧
      exec (.w26Dec { kind := .value, val := r.hex.setWidth 64 }) u
        = .next { u with phase := .idle, rspPort := u.rspPort ++ [.okFrame r] }

/-- A whole `W26.ENC`, from its presentation to its response: with an idle core, the moves present, core, digest
answer, core take four steps of the machine and leave exactly one response, whose payload is the last three bytes of
the digest of the identifier (70_reset_and_hazards.md section 3: two steps of the core). The agenda of moves is the
model's, log entry 3. -/
def Obligations.W26EncCompletesInTwoCoreTurns : Prop :=
  ∀ (s : State) (id : IdOperand) (rest : List Move),
    id.wf = true → id.present = true → 1 ≤ id.len.toNat → id.len.toNat ≤ 10 →
    s.phase = .idle → s.cmdPort = [] →
    s.agenda = .present (encode (.w26Enc id)) :: .core :: .digestOk :: .core :: rest →
    ∃ (t : State) (r : Wiegand26Result),
      Host.Core.run Sys2Proof.core 4 s = .next t ∧
      t.rspPort = s.rspPort ++ [.okFrame r] ∧
      r.pay.toNat
        = (Config.digest (id.ch.take id.len.toNat))[17].toNat * 65536
          + (Config.digest (id.ch.take id.len.toNat))[18].toNat * 256
          + (Config.digest (id.ch.take id.len.toNat))[19].toNat ∧
      t.phase = .idle ∧ t.cmdPort = [] ∧ t.agenda = rest

/-! ### The Wiegand26 decoder and accessors (41_w26_decode.md) -/

/-- R121 with the values of R122: `W26.DEC` answers ABSENT for an absent or blank operand, MALFORMED where the
value does not fit 26 bits, and otherwise the five fields as numbers of the value. Completion of `w26Dec`. -/
def Obligations.W26DecAnswersTheFields : Prop :=
  ∀ (code : CodeOperand) (s : State),
    (code.kind = .absent ∨ code.kind = .blank →
      exec (.w26Dec code) s = .next { s with phase := .idle, rspPort := s.rspPort ++ [.absent] }) ∧
    (code.kind = .ovf ∨ (code.kind = .value ∧ 26 < Nat.size code.val.toNat) →
      exec (.w26Dec code) s = .next { s with rspPort := s.rspPort ++ [.malformed] }) ∧
    (code.kind = .value → Nat.size code.val.toNat ≤ 26 →
      ∃ r : Wiegand26Result,
        exec (.w26Dec code) s = .next { s with phase := .idle, rspPort := s.rspPort ++ [.okFrame r] } ∧
        r.hex.toNat = code.val.toNat ∧
        r.pay.toNat = code.val.toNat / 2 % 2 ^ 24 ∧
        r.fc.toNat = code.val.toNat / 2 ^ 17 % 256 ∧
        r.idn.toNat = code.val.toNat / 2 % 65536 ∧
        r.pay.toNat = r.fc.toNat * 65536 + r.idn.toNat ∧
        r.fcid.toNat = r.fc.toNat * 100000 + r.idn.toNat)

/-- FCID is `fc * 100000 + idn`, which is the number that the decimal digits of the facility code followed by the id
number, zero-padded to five digits, spell in base 10 (least significant digit first here); it is at most 25565535, and
distinct pairs give distinct numbers. The spec states the text and the formula, and derives that they agree and that
the numbers are distinct (41_w26_decode.md section 2). -/
def Obligations.FcidIsTheDecimalConcatenation : Prop :=
  (∀ (fc : BitVec 8) (idn : BitVec 16),
    (fcidOf fc idn).toNat = fc.toNat * 100000 + idn.toNat ∧
    (fcidOf fc idn).toNat
      = Nat.ofDigits 10
          (Nat.digits 10 idn.toNat ++ List.replicate (5 - (Nat.digits 10 idn.toNat).length) 0 ++ Nat.digits 10 fc.toNat) ∧
    (Nat.digits 10 idn.toNat ++ List.replicate (5 - (Nat.digits 10 idn.toNat).length) 0).length = 5 ∧
    (fcidOf fc idn).toNat ≤ 25565535) ∧
  (∀ (fc fc' : BitVec 8) (idn idn' : BitVec 16), fcidOf fc idn = fcidOf fc' idn' → fc = fc' ∧ idn = idn')

/-- R124, R125 and R126: each accessor answers its one field of a value that fits 26 bits. Completion of `w26Rdfc`,
`w26Rdid` and `w26Rdpay`. -/
def Obligations.AccessorsAnswerTheirField : Prop :=
  ∀ (code : CodeOperand) (s : State),
    (code.kind = .value → code.val.toNat < 2 ^ 26 →
      exec (.w26Rdfc code) s
        = .next { s with
            phase := .idle
            rspPort := s.rspPort ++ [.okAcc (BitVec.ofNat 24 (code.val.toNat / 2 ^ 17 % 256))] } ∧
      exec (.w26Rdid code) s
        = .next { s with
            phase := .idle
            rspPort := s.rspPort ++ [.okAcc (BitVec.ofNat 24 (code.val.toNat / 2 % 65536))] } ∧
      exec (.w26Rdpay code) s
        = .next { s with
            phase := .idle
            rspPort := s.rspPort ++ [.okAcc (BitVec.ofNat 24 (code.val.toNat / 2 % 2 ^ 24))] }) ∧
    (code.kind ≠ .value ∨ 2 ^ 26 ≤ code.val.toNat →
      exec (.w26Rdfc code) s = .next { s with rspPort := s.rspPort ++ [.malformed] } ∧
      exec (.w26Rdid code) s = .next { s with rspPort := s.rspPort ++ [.malformed] } ∧
      exec (.w26Rdpay code) s = .next { s with rspPort := s.rspPort ++ [.malformed] })

/-- R127: a frame whose parity bits are wrong decodes exactly like one whose bits are right: two values that agree but
in bits 25 and 0 give the same fields, and differ in `hex` only; and the accessors answer alike. -/
def Obligations.ParityIsNotCheckedOnDecode : Prop :=
  ∀ (v v' : BitVec 64) (s : State), v.toNat < 2 ^ 26 → v'.toNat < 2 ^ 26 →
    v.toNat / 2 % 2 ^ 24 = v'.toNat / 2 % 2 ^ 24 →
    (∃ r r' : Wiegand26Result,
      exec (.w26Dec ⟨.value, v⟩) s = .next { s with phase := .idle, rspPort := s.rspPort ++ [.okFrame r] } ∧
      exec (.w26Dec ⟨.value, v'⟩) s = .next { s with phase := .idle, rspPort := s.rspPort ++ [.okFrame r'] } ∧
      r' = { r with hex := r'.hex } ∧ r.hex.toNat = v.toNat ∧ r'.hex.toNat = v'.toNat) ∧
    exec (.w26Rdfc ⟨.value, v⟩) s = exec (.w26Rdfc ⟨.value, v'⟩) s ∧
    exec (.w26Rdid ⟨.value, v⟩) s = exec (.w26Rdid ⟨.value, v'⟩) s ∧
    exec (.w26Rdpay ⟨.value, v⟩) s = exec (.w26Rdpay ⟨.value, v'⟩) s

/-! ### The Wiegand64 half (42_w64_encode.md, 43_w64_decode.md) -/

/-- R69: the forward map ALPHA on all 256 character codes, in order: space is 0, the digits 16 to 25, the capital
letters 26 to 51, and every other code 63. -/
def Obligations.AlphaTable : Prop :=
  ((List.range 256).map fun c => alpha (BitVec.ofNat 8 c))
    = List.replicate 0x20 63#6 ++ [0#6] ++ List.replicate 15 63#6
        ++ (List.range 10).map (fun k => BitVec.ofNat 6 (16 + k)) ++ List.replicate 7 63#6
        ++ (List.range 26).map (fun k => BitVec.ofNat 6 (26 + k)) ++ List.replicate 165 63#6

/-- The reverse map REV on all 64 values, in order, and how the two maps compose (30_encoding.md section 4). The rule's
sentence that REV of ALPHA returns a code unchanged "exactly when" it is a space, a digit or a capital letter is false
of the tables at one code, `?`, which both maps return too (log entry 24); what is stated here is what the tables say. -/
def Obligations.RevTableAndCompositions : Prop :=
  ((List.range 64).map fun g => rev (BitVec.ofNat 6 g))
    = [0x20#8] ++ List.replicate 15 0x3F#8 ++ (List.range 10).map (fun k => BitVec.ofNat 8 (0x30 + k))
        ++ (List.range 26).map (fun k => BitVec.ofNat 8 (0x41 + k)) ++ List.replicate 12 0x3F#8 ∧
  (∀ c : Byte, rev (alpha c)
    = if c = 0x20#8 ∨ (0x30 ≤ c.toNat ∧ c.toNat ≤ 0x39) ∨ (0x41 ≤ c.toNat ∧ c.toNat ≤ 0x5A) then c else 0x3F#8) ∧
  (∀ g : Group, alpha (rev g) = g ↔ g = 0#6 ∨ (16 ≤ g.toNat ∧ g.toNat ≤ 51) ∨ g = 63#6)

/-- R141: the padded text has ten characters, spaces on the left and the identifier right-aligned. -/
def Obligations.PaddingIsOnTheLeft : Prop :=
  ∀ t : Str, 1 ≤ t.length → t.length ≤ 10 →
    (pad10 t).length = 10 ∧
    ∀ i, i < 10 → (pad10 t)[i]? = if i < 10 - t.length then some 0x20#8 else t[i - (10 - t.length)]?

/-- R143: group `i` of the packed word stands at bits `59-6i` to `54-6i`, and the header above them is `0110`, whatever
the groups. -/
def Obligations.PackedGroupsStandAtTheirBits : Prop :=
  ∀ g : List Group, g.length = 10 →
    (pack64 g).toNat / 2 ^ 60 = 6 ∧
    ∀ i, i < 10 → g[i]? = some (BitVec.ofNat 6 ((pack64 g).toNat / 2 ^ (54 - 6 * i)))

/-- R140 and R144: `W64.ENC` answers ABSENT for an absent or empty identifier, TOO_LONG above ten characters, and
otherwise, in the step that accepts it, a word with the header `0110` whose group `i` is the mapped character `i` of the
identifier padded with spaces on the left. Completion of `w64Enc`. -/
def Obligations.W64EncAnswersTheWord : Prop :=
  ∀ (id : IdOperand) (s : State),
    (id.present = false ∨ id.len = 0#8 →
      exec (.w64Enc id) s = .next { s with phase := .idle, rspPort := s.rspPort ++ [.absent] }) ∧
    (id.present = true → 10 < id.len.toNat →
      exec (.w64Enc id) s = .next { s with rspPort := s.rspPort ++ [.tooLong] }) ∧
    (id.wf = true → id.present = true → 1 ≤ id.len.toNat → id.len.toNat ≤ 10 →
      ∃ c : BitVec 64,
        exec (.w64Enc id) s = .next { s with phase := .idle, rspPort := s.rspPort ++ [.okCode64 c] } ∧
        c.toNat / 2 ^ 60 = 6 ∧ 0x6000000000000000 ≤ c.toNat ∧ c.toNat ≤ 0x6FFFFFFFFFFFFFFF ∧
        ∀ i, i < 10 →
          BitVec.ofNat 6 (c.toNat / 2 ^ (54 - 6 * i))
            = if i < 10 - id.len.toNat then 0#6 else alpha (id.ch.getD (i - (10 - id.len.toNat)) 0))

/-- R156 and R157: group `i` is bits `59-6i` to `54-6i`, character `i` of the raw text is its reverse map, and that is a
space, a digit, a capital letter or `?`. -/
def Obligations.RawTextReverseMapsTheGroups : Prop :=
  ∀ v : BitVec 64, ∃ (raw txt : Str) (tlen : BitVec 4),
    textResponse v = .okText raw txt tlen ∧ raw.length = 10 ∧
    (∀ i, i < 10 → (unpack64 v)[i]? = some (BitVec.ofNat 6 (v.toNat / 2 ^ (54 - 6 * i) % 64))) ∧
    (∀ i, i < 10 → raw[i]? = some (rev (BitVec.ofNat 6 (v.toNat / 2 ^ (54 - 6 * i) % 64)))) ∧
    ∀ c ∈ raw, isDecodedChar c

/-- R158: TRIM by its least and greatest index of a character that is no space; with none the text is empty. -/
def Obligations.TrimRemovesTheOuterSpaces : Prop :=
  ∀ v : BitVec 64, ∃ (raw txt : Str) (tlen : BitVec 4),
    textResponse v = .okText raw txt tlen ∧ txt.length = 10 ∧
    ((∀ c ∈ raw, c = 0x20#8) → tlen = 0#4 ∧ ∀ c ∈ txt, c = 0x20#8) ∧
    ∀ a b, a ≤ b → b < 10 → raw[a]? ≠ some 0x20#8 → raw[b]? ≠ some 0x20#8 →
      (∀ k, k < a → raw[k]? = some 0x20#8) → (∀ k, b < k → k < 10 → raw[k]? = some 0x20#8) →
      tlen.toNat = b - a + 1 ∧
      (∀ j, j < b - a + 1 → txt[j]? = raw[a + j]?) ∧
      (∀ j, b - a + 1 ≤ j → j < 10 → txt[j]? = some 0x20#8)

/-- R155: `W64.DEC` never fails: ABSENT for an absent or blank operand, and for every other operand, whatever its header
and its kind, the ten reverse-mapped groups and their text without the outer spaces. Completion of `w64Dec`. -/
def Obligations.W64DecAlwaysAnswers : Prop :=
  ∀ (code : CodeOperand) (s : State),
    (code.kind = .absent ∨ code.kind = .blank →
      exec (.w64Dec code) s = .next { s with phase := .idle, rspPort := s.rspPort ++ [.absent] }) ∧
    (code.kind = .value ∨ code.kind = .ovf →
      ∃ (raw txt : Str) (tlen : BitVec 4),
        exec (.w64Dec code) s = .next { s with phase := .idle, rspPort := s.rspPort ++ [.okText raw txt tlen] } ∧
        (∀ i, i < 10 → raw[i]? = some (rev (BitVec.ofNat 6 (code.val.toNat / 2 ^ (54 - 6 * i) % 64)))) ∧
        raw.length = 10 ∧ tlen.toNat ≤ 10 ∧ txt.length = 10 ∧
        (∃ a b, raw = List.replicate a 0x20#8 ++ txt.take tlen.toNat ++ List.replicate b 0x20#8) ∧
        (txt.take tlen.toNat).head? ≠ some 0x20#8 ∧ (txt.take tlen.toNat).getLast? ≠ some 0x20#8 ∧
        ∀ c ∈ txt.drop tlen.toNat, c = 0x20#8)

/-- R159: the header is read by nothing, and the bits above bit 63 neither: two operands that agree on bits 59 to 0
answer alike, as `K_VALUE` or as `K_OVF`. -/
def Obligations.W64DecIgnoresTheHeader : Prop :=
  ∀ (v v' : BitVec 64) (k k' : Kind) (s : State), k ∈ [Kind.value, Kind.ovf] → k' ∈ [Kind.value, Kind.ovf] →
    v.toNat % 2 ^ 60 = v'.toNat % 2 ^ 60 → exec (.w64Dec ⟨k, v⟩) s = exec (.w64Dec ⟨k', v'⟩) s

/-- The round trip, which the spec derives (43_w64_decode.md section 3): for an identifier of 1 to 10 capital letters,
digits and spaces, decoding its word gives the identifier without its outer spaces; without spaces it gives the
identifier itself, with its length. -/
def Obligations.W64RoundTrip : Prop :=
  ∀ (t : Str) (s u : State), 1 ≤ t.length → t.length ≤ 10 →
    (∀ c ∈ t, c = 0x20#8 ∨ (0x30 ≤ c.toNat ∧ c.toNat ≤ 0x39) ∨ (0x41 ≤ c.toNat ∧ c.toNat ≤ 0x5A)) →
    ∃ (c : BitVec 64) (raw txt : Str) (tlen : BitVec 4),
      exec (.w64Enc (IdOperand.ofText (some t))) s
        = .next { s with phase := .idle, rspPort := s.rspPort ++ [.okCode64 c] } ∧
      exec (.w64Dec ⟨.value, c⟩) u
        = .next { u with phase := .idle, rspPort := u.rspPort ++ [.okText raw txt tlen] } ∧
      (∃ a b, t = List.replicate a 0x20#8 ++ txt.take tlen.toNat ++ List.replicate b 0x20#8) ∧
      (txt.take tlen.toNat).head? ≠ some 0x20#8 ∧ (txt.take tlen.toNat).getLast? ≠ some 0x20#8 ∧
      (0x20#8 ∉ t → txt.take tlen.toNat = t ∧ tlen.toNat = t.length)

/-- `W64.ENC` is injective on identifiers of 1 to 10 capital letters and digits (42_w64_encode.md section 3, corner
case (g), which the spec derives). -/
def Obligations.W64EncIsInjective : Prop :=
  ∀ (t t' : Str) (s : State), 1 ≤ t.length → t.length ≤ 10 → 1 ≤ t'.length → t'.length ≤ 10 →
    (∀ c ∈ t ++ t', (0x30 ≤ c.toNat ∧ c.toNat ≤ 0x39) ∨ (0x41 ≤ c.toNat ∧ c.toNat ≤ 0x5A)) →
    exec (.w64Enc (IdOperand.ofText (some t))) s = exec (.w64Enc (IdOperand.ofText (some t'))) s → t = t'

/-! ### Outcomes, errors and frames (60_exceptions.md) -/

/-- Both encoders test for an absent identifier first and then for its length, and then only answer: nothing but the
response changes (60_exceptions.md sections 1 and 3). -/
def Obligations.EncodersTestAbsentThenLength : Prop :=
  ∀ (id : IdOperand) (s : State),
    (id.present = false ∨ id.len = 0#8 →
      exec (.w26Enc id) s = .next { s with phase := .idle, rspPort := s.rspPort ++ [.absent] } ∧
      exec (.w64Enc id) s = .next { s with phase := .idle, rspPort := s.rspPort ++ [.absent] }) ∧
    (id.present = true → 10 < id.len.toNat →
      exec (.w26Enc id) s = .next { s with rspPort := s.rspPort ++ [.tooLong] } ∧
      exec (.w64Enc id) s = .next { s with rspPort := s.rspPort ++ [.tooLong] })

/-- R171 and R172: which commands answer which status in the step that accepts them. TOO_LONG is answered by the two
encoders exactly for a present identifier of more than ten characters; MALFORMED by the decoder and the accessors of
Wiegand26 exactly for the causes of R172; ABSENT exactly for the cases of R174; and never another status but OK. -/
def Obligations.StatusesByOperation : Prop :=
  ∀ (i : Instr) (s t : State) (r : Response), exec i s = .next t → t.rspPort = s.rspPort ++ [r] →
    (r.status = 1#3 ↔
      (∃ id : IdOperand, (i = .w26Enc id ∨ i = .w64Enc id) ∧ (id.present = false ∨ id.len = 0#8)) ∨
      (∃ code : CodeOperand, (i = .w26Dec code ∨ i = .w64Dec code) ∧ (code.kind = .absent ∨ code.kind = .blank))) ∧
    (r.status = 2#3 ↔
      ∃ id : IdOperand, (i = .w26Enc id ∨ i = .w64Enc id) ∧ id.present = true ∧ 10 < id.len.toNat) ∧
    (r.status = 3#3 ↔
      ∃ code : CodeOperand,
        (i = .w26Dec code ∧ (code.kind = .ovf ∨ (code.kind = .value ∧ 2 ^ 26 ≤ code.val.toNat))) ∨
        ((i = .w26Rdfc code ∨ i = .w26Rdid code ∨ i = .w26Rdpay code) ∧
          (code.kind ≠ .value ∨ 2 ^ 26 ≤ code.val.toNat))) ∧
    r.status.toNat ≤ 3

/-- The nine reserved opcodes are refused by name, in every state (30_encoding.md section 1); and so is a word of any
length from 4 bits up with such an opcode at the command port, when the core would accept it. That a reserved opcode is
told from its top 4 bits at any length is the model's choice, log entry 2. The stop of
`reserved5`, `reserved6`, `reserved7`, `reservedA`, `reservedB`, `reservedC`, `reservedD`, `reservedE` and
`reservedF`. -/
def Obligations.ReservedOpcodesAreRefused : Prop :=
  (∀ (i : Instr) (s : State), i.isReserved = true →
    exec i s = .refused (.reservedOpcode i.opcode) ∧
      i.opcode ∈ [0x5#4, 0x6#4, 0x7#4, 0xA#4, 0xB#4, 0xC#4, 0xD#4, 0xE#4, 0xF#4]) ∧
  (∀ (w : CmdWord) (s : State), 4 ≤ w.len → s.phase = .idle → s.cmdPort.head? = some w →
    w.op ∈ [0x5#4, 0x6#4, 0x7#4, 0xA#4, 0xB#4, 0xC#4, 0xD#4, 0xE#4, 0xF#4] →
    coreTurn s = .refused (.reservedOpcode w.op))

/-- R62: the reserved opcodes are the nine values the rule lists, and a command with one gets no step and no response:
it is refused by its opcode, when it is run in any state, and when the core would accept it from the command port. The
stop of `reserved5`, `reserved6`, `reserved7`, `reservedA`, `reservedB`, `reservedC`, `reservedD`, `reservedE` and
`reservedF`. -/
def Obligations.ReservedCommandHasNoStep : Prop :=
  (∀ i : Instr, i.isReserved = true ↔ i.opcode ∈ [0x5#4, 0x6#4, 0x7#4, 0xA#4, 0xB#4, 0xC#4, 0xD#4, 0xE#4, 0xF#4]) ∧
  (∀ (i : Instr) (s : State), i.isReserved = true → exec i s = .refused (.reservedOpcode i.opcode)) ∧
  (∀ (i : Instr) (w : CmdWord) (s : State), i.isReserved = true → decode w = .ok i → s.phase = .idle →
    s.cmdPort.head? = some w → coreTurn s = .refused (.reservedOpcode i.opcode))

/-- R31: the response of a command is a function of that command alone and, for `W26.ENC`, of the digest unit's answer:
whatever the state, every operation emits that one response, or sends that one digest request and responds from the
answer alone. -/
def Obligations.ResponseIsAFunctionOfTheCommand : Prop :=
  (∀ i : Instr, i.isReserved = false →
    (∃ r : Response, ∀ s : State, ∃ t : State,
      exec i s = .next t ∧ t.rspPort = s.rspPort ++ [r] ∧ t.dreq = s.dreq) ∨
    (∃ q : Str, ∀ s : State, ∃ t : State,
      exec i s = .next t ∧ t.rspPort = s.rspPort ∧ t.dreq = some q ∧ t.phase = .waitDigest)) ∧
  (∀ a : DigestAnswer, ∃ r : Response, ∀ s : State, s.phase = .waitDigest → s.dans = some a →
    ∃ t : State, coreTurn s = .next t ∧ t.rspPort = s.rspPort ++ [r])

/-- R186, the frame of every command: it appends one response and changes nothing else, or it is a `W26.ENC` of 1 to 10
characters, which sends its digest request; and the second half of that one appends its response and empties the channel
(with LATCH meaningless from there on). Command port and agenda never change. -/
def Obligations.CommandFrame : Prop :=
  (∀ (i : Instr) (s t : State), s.phase = .idle → exec i s = .next t →
    (∃ r : Response, t = { s with rspPort := s.rspPort ++ [r] }) ∨
    (∃ id : IdOperand, i = .w26Enc id ∧ id.present = true ∧ 1 ≤ id.len.toNat ∧ id.len.toNat ≤ 10 ∧
      t = { s with
        phase := .waitDigest
        latch := id.ch.take id.len.toNat
        dreq := some (id.ch.take id.len.toNat)
        dans := none })) ∧
  (∀ (s t : State) (a : DigestAnswer), s.phase = .waitDigest → s.dans = some a → coreTurn s = .next t →
    ∃ r : Response,
      t = { s with
        phase := t.phase
        latch := t.latch
        fresh := t.fresh
        rspPort := s.rspPort ++ [r]
        dreq := none
        dans := none })

/-- After a command that has answered, the next command runs exactly as if the first had never been issued, but that the
first one's response stands before its own (60_exceptions.md section 4, return and nesting, which the spec derives). -/
def Obligations.NextCommandIsUnaffected : Prop :=
  ∀ (i j : Instr) (s t u : State), s.phase = .idle → exec i s = .next t → t.phase = .idle → exec j s = .next u →
    exec j t = .next { u with rspPort := t.rspPort ++ u.rspPort.drop s.rspPort.length }

/-- Parts of an operand that have no meaning do not matter: everything of an absent identifier but `present`, the
characters from `len` on, the exact length above ten; the value of an absent or blank code, and for the Wiegand26
operations that of an overflowing one (30_encoding.md section 1; 93_implementation_defined.md U9). -/
def Obligations.MeaninglessOperandPartsAreIgnored : Prop :=
  (∀ (id id' : IdOperand) (s : State),
    (id.present = false ∧ id'.present = false) ∨
    (id.present = true ∧ id'.present = true ∧
      ((10 < id.len.toNat ∧ 10 < id'.len.toNat) ∨
       (id.len = id'.len ∧ id.ch.take id.len.toNat = id'.ch.take id.len.toNat))) →
    exec (.w26Enc id) s = exec (.w26Enc id') s ∧ exec (.w64Enc id) s = exec (.w64Enc id') s) ∧
  (∀ (k : Kind) (v v' : BitVec 64) (s : State),
    (k = .absent ∨ k = .blank → exec (.w64Dec ⟨k, v⟩) s = exec (.w64Dec ⟨k, v'⟩) s) ∧
    (k ≠ .value →
      exec (.w26Dec ⟨k, v⟩) s = exec (.w26Dec ⟨k, v'⟩) s ∧ exec (.w26Rdfc ⟨k, v⟩) s = exec (.w26Rdfc ⟨k, v'⟩) s ∧
      exec (.w26Rdid ⟨k, v⟩) s = exec (.w26Rdid ⟨k, v'⟩) s ∧
      exec (.w26Rdpay ⟨k, v⟩) s = exec (.w26Rdpay ⟨k, v'⟩) s))

/-! ### The sequencer (10_state.md, 20_memory.md section 4, 70_reset_and_hazards.md)

The agenda of moves, of which `step` takes the first, is the model's own (log entry 3); so are the lists that stand for
the ports (log entries 4 and 5). -/

/-- When PHASE is IDLE and the core has the turn, a step takes the first word off the command port and is `exec` of the
instruction it decodes to, at the state without that word and that move. The word placed by `withFetchWord` is run in
the same way by the very next step. -/
def Obligations.StepRunsTheDecodedCommand : Prop :=
  (∀ (s : State) (w : CmdWord) (rest : List CmdWord) (i : Instr),
    s.phase = .idle → s.cmdPort = w :: rest → decode w = .ok i →
    (s.agenda = [] ∨ s.agenda.head? = some .core) →
    step s = exec i { s with cmdPort := rest, agenda := s.agenda.tail }) ∧
  (∀ (s : State) (nbits w : Nat) (i : Instr), decodeTableWord nbits w = some i →
    step (s.withFetchWord nbits w) = exec i { s with phase := .idle })

/-- While PHASE is not IDLE a command at the port is held: with no answer to consume, a turn of the core changes
nothing, and when FAULTED it changes nothing at all (70_reset_and_hazards.md section 3; a wait of no effect is log
entry 12). -/
def Obligations.CommandIsHeldWhileBusy : Prop :=
  ∀ s : State, (s.agenda = [] ∨ s.agenda.head? = some .core) →
    (s.phase = .waitDigest ∧ s.dans = none) ∨ s.phase = .faulted → step s = .next { s with agenda := s.agenda.tail }

/-- R29: bit 0 of STAT is 1 exactly when PHASE is not IDLE, bit 1 exactly when it is FAULTED; so STAT is `00` in IDLE,
`01` in WAIT_DIGEST, `11` in FAULTED, never `10`, and `00` after reset. -/
def Obligations.StatShowsThePhase : Prop :=
  (∀ s : State,
    (s.stat.getLsbD 0 = true ↔ s.phase ≠ .idle) ∧ (s.stat.getLsbD 1 = true ↔ s.phase = .faulted) ∧
    (s.stat = 0b00#2 ↔ s.phase = .idle) ∧ (s.stat = 0b01#2 ↔ s.phase = .waitDigest) ∧
    (s.stat = 0b11#2 ↔ s.phase = .faulted) ∧ s.stat ≠ 0b10#2) ∧
  State.reset.stat = 0b00#2

/-- PHASE changes only in the ways of 10_state.md section 2: by a reset to IDLE; by the acceptance of a `W26.ENC` of 1
to 10 characters; by an answer of the digest unit, to IDLE or to FAULTED. -/
def Obligations.PhaseChangesOnlyAsListed : Prop :=
  ∀ s t : State, step s = .next t → t.phase ≠ s.phase →
    (s.agenda.head? = some .assertReset ∧ t.phase = .idle) ∨
    ((s.agenda = [] ∨ s.agenda.head? = some .core) ∧
      ((s.phase = .idle ∧ t.phase = .waitDigest ∧
          ∃ (w : CmdWord) (rest : List CmdWord) (id : IdOperand),
            s.cmdPort = w :: rest ∧ decode w = .ok (.w26Enc id) ∧ id.present = true ∧
            1 ≤ id.len.toNat ∧ id.len.toNat ≤ 10) ∨
       (s.phase = .waitDigest ∧ t.phase = .idle ∧ ∃ d, s.dans = some (.ok d)) ∨
       (s.phase = .waitDigest ∧ t.phase = .faulted ∧ s.dans = some .fail)))

/-- Once FAULTED, nothing but a reset leaves the state: until then no command is accepted and no response emitted
(60_exceptions.md section 1, the digest fault; 70_reset_and_hazards.md section 1). -/
def Obligations.FaultedUntilReset : Prop :=
  ∀ s t : State, s.phase = .faulted → s.agenda.head? ≠ some .assertReset → step s = .next t →
    t.phase = .faulted ∧ (∃ l, t.cmdPort = s.cmdPort ++ l) ∧
    (t.rspPort = s.rspPort ∨ (s.agenda.head? = some .readResponse ∧ t.rspPort = s.rspPort.tail))

/-- Commands are accepted one at a time, in the order the host issues them, and only when PHASE is IDLE: a step leaves
the command port alone, or appends one command, or takes its first, or is a reset (20_memory.md section 4). -/
def Obligations.CommandsAreTakenInOrder : Prop :=
  ∀ s t : State, step s = .next t →
    t.cmdPort = s.cmdPort ∨
    (∃ w, t.cmdPort = s.cmdPort ++ [w] ∧ (s.agenda.head? = some (.present w) ∨
      ∃ f x i, s.agenda.head? = some (.call f x) ∧ hostCall f x = some i ∧ w = encode i)) ∨
    ((s.agenda = [] ∨ s.agenda.head? = some .core) ∧ s.phase = .idle ∧ ∃ w, s.cmdPort = w :: t.cmdPort) ∨
    (s.agenda.head? = some .assertReset ∧ t.cmdPort = [])

/-- Responses come out in order and one at a time: only a turn of the core adds one, behind those not yet read; the host
reads the oldest; a reset loses them (20_memory.md section 4; 10_state.md section 7). -/
def Obligations.ResponsesComeInOrder : Prop :=
  ∀ s t : State, step s = .next t →
    t.rspPort = s.rspPort ∨
    ((s.agenda = [] ∨ s.agenda.head? = some .core) ∧ ∃ r, t.rspPort = s.rspPort ++ [r]) ∨
    (s.agenda.head? = some .readResponse ∧ t.rspPort = s.rspPort.tail) ∨
    (s.agenda.head? = some .assertReset ∧ t.rspPort = [])

/-- The digest unit answers the outstanding request, with the digest of LATCH where it answers at all, and an answer
when PHASE is not WAIT_DIGEST is discarded (10_state.md section 5; 20_memory.md section 4). That an answer without a
request, or behind one that the core has not consumed, is discarded too is log entry 10; the moves are log entry 3. -/
def Obligations.DigestUnitAnswersTheRequest : Prop :=
  ∀ (s : State) (rest : List Move),
    (s.Inv → s.phase = .waitDigest → s.dans = none → s.agenda = .digestOk :: rest →
      step s = .next { s with agenda := rest, dans := some (.ok (Config.digest s.latch)) }) ∧
    (s.Inv → s.phase = .waitDigest → s.dans = none → s.agenda = .digestFail :: rest →
      step s = .next { s with agenda := rest, dans := some .fail }) ∧
    (s.phase ≠ .waitDigest → s.agenda = .digestOk :: rest ∨ s.agenda = .digestFail :: rest →
      step s = .next { s with agenda := rest }) ∧
    (s.dans ≠ none ∨ s.dreq = none → s.agenda = .digestOk :: rest ∨ s.agenda = .digestFail :: rest →
      step s = .next { s with agenda := rest })

/-- A run that hangs, hangs for ever: with no answer and no reset still to come every further step keeps WAIT_DIGEST
and emits no response (60_exceptions.md section 1, the digest fault, case (c)). -/
def Obligations.HungRunStaysHung : Prop :=
  ∀ s t : State, s.hung → step s = .next t →
    t.hung ∧ (t.rspPort = s.rspPort ∨ (s.agenda.head? = some .readResponse ∧ t.rspPort = s.rspPort.tail))

/-- What stands for "every issued command has been accepted and has received its response" (70_reset_and_hazards.md
section 3, the end of a run) is kept by every step: a command that the host issues adds one to the commands without a
response, the response that a turn of the core emits takes one away, a reset adds the responses that it loses, and
nothing else changes the number. The count is the model's own, log entry 25. -/
def Obligations.OutstandingCountsTheUnansweredCommands : Prop :=
  ∀ s t : State, step s = .next t →
    ((∃ w, s.agenda.head? = some (.present w)) ∨ (∃ f x, s.agenda.head? = some (.call f x)) →
      t.outstanding = s.outstanding + 1) ∧
    (s.agenda = [] ∨ s.agenda.head? = some .core →
      t.outstanding + t.rspPort.length = s.outstanding + s.rspPort.length) ∧
    (s.agenda.head? = some .assertReset → t.outstanding = s.outstanding + s.rspPort.length) ∧
    (s.agenda.head? ∈ [some .readResponse, some .digestOk, some .digestFail] → t.outstanding = s.outstanding)

/-- A run in which a reset abandoned a pending `W26.ENC`, dropped a held command or lost an unread response never ends
well: the command never gets its response (70_reset_and_hazards.md sections 1 and 3). That a lost response counts as not
received is the model's choice, log entry 25. -/
def Obligations.AbandonedCommandNeverEndsWell : Prop :=
  ∀ (s t u : State) (k : Nat), s.agenda.head? = some .assertReset →
    s.phase = .waitDigest ∨ s.cmdPort ≠ [] ∨ s.rspPort ≠ [] →
    step s = .next t → Host.Core.run Sys2Proof.core k t = .next u → ¬u.endedWell

/-- A reset at any time leaves PHASE = IDLE, STAT = 00, no command, no response and no digest request pending, and
drops a held command (70_reset_and_hazards.md section 1; that the outstanding request is gone too is log entry 11). -/
def Obligations.ResetMoveClearsEverything : Prop :=
  ∀ (s : State) (rest : List Move), s.agenda = .assertReset :: rest →
    ∃ t : State, step s = .next t ∧ t.phase = .idle ∧ t.stat = 0b00#2 ∧ t.cmdPort = [] ∧ t.rspPort = [] ∧
      t.dreq = none ∧ t.dans = none ∧ t.agenda = rest

/-- R200: after reset PHASE = IDLE, STAT = 00, nothing is pending, the core waits for the first command, and the tables
hold their constant contents (ALPHA symbol by symbol, REV entry by entry). LATCH, which the rule leaves unspecified, is
not stated. -/
def Obligations.ResetStateIsAsGiven : Prop :=
  State.reset.phase = .idle ∧ State.reset.stat = 0b00#2 ∧ State.reset.cmdPort = [] ∧ State.reset.rspPort = [] ∧
    State.reset.dreq = none ∧ State.reset.dans = none ∧ coreTurn State.reset = .next State.reset ∧
    alpha 0x20#8 = 0#6 ∧
    (∀ k, k < 10 → alpha (BitVec.ofNat 8 (0x30 + k)) = BitVec.ofNat 6 (16 + k) ∧
      rev (BitVec.ofNat 6 (16 + k)) = BitVec.ofNat 8 (0x30 + k)) ∧
    (∀ k, k < 26 → alpha (BitVec.ofNat 8 (0x41 + k)) = BitVec.ofNat 6 (26 + k) ∧
      rev (BitVec.ofNat 6 (26 + k)) = BitVec.ofNat 8 (0x41 + k)) ∧
    (∀ c : Byte, c ≠ 0x20#8 → ¬(0x30 ≤ c.toNat ∧ c.toNat ≤ 0x39) → ¬(0x41 ≤ c.toNat ∧ c.toNat ≤ 0x5A) →
      alpha c = 63#6) ∧
    rev 0#6 = 0x20#8 ∧ (∀ g : Group, g ≠ 0#6 → g.toNat < 16 ∨ 51 < g.toNat → rev g = 0x3F#8)

/-- The machine's invariant holds after reset. -/
def Obligations.ResetMeetsTheInvariant : Prop :=
  State.reset.Inv

/-- Every step keeps the invariant, whatever the moves of the host and the digest unit: the channel carries a request
exactly while PHASE = WAIT_DIGEST, that request is LATCH and has 1 to 10 characters, an answer of 20 bytes is its
digest, and every response is well formed (10_state.md sections 2, 4 and 5; 41_w26_decode.md section 4;
42_w64_encode.md section 2; 43_w64_decode.md section 2). -/
def Obligations.StepKeepsTheInvariant : Prop :=
  ∀ s t : State, s.Inv → step s = .next t → t.Inv

/-! ### The host's text functions (30_encoding.md section 5, 70_reset_and_hazards.md section 4) -/

/-- A value rendered in `n` digits has `n` characters, and `hex_parse` reads it back; leading zeros change nothing
(30_encoding.md section 5). -/
def Obligations.HexParseReadsRenderedText : Prop :=
  ∀ v n : Nat, 1 ≤ n → v < 16 ^ n →
    (hexRender v n).length = n ∧
    ∀ k : Nat,
      hexParse (some (List.replicate k 0x30#8 ++ hexRender v n))
        = some { kind := if v < 2 ^ 64 then .value else .ovf, val := BitVec.ofNat 64 v }

/-- The cases of `hex_parse` that are no number: an absent text, an empty one and one of spaces, and a text with a
printable character that is no hex digit, which is refused when the host presents it (30_encoding.md section 5;
60_exceptions.md section 6). -/
def Obligations.HexParseOfOtherText : Prop :=
  hexParse none = some { kind := .absent, val := 0#64 } ∧
  (∀ k : Nat, hexParse (some (List.replicate k 0x20#8)) = some { kind := .blank, val := 0#64 }) ∧
  (∀ (t : Str) (c : Byte), c ∈ t → 0x21 ≤ c.toNat → c.toNat ≤ 0x7E →
    ¬(0x30 ≤ c.toNat ∧ c.toNat ≤ 0x39) → ¬(0x41 ≤ c.toNat ∧ c.toNat ≤ 0x46) → ¬(0x61 ≤ c.toNat ∧ c.toNat ≤ 0x66) →
    hexParse (some t) = none ∧
    ∀ (s : State) (rest : List Move), s.agenda = .call .decode64 (some t) :: rest → step s = .refused .undefinedText)

/-- The normaliser keeps its contract: what it returns is not empty and holds capital letters and digits only, and a
text that is already so is returned as it is (70_reset_and_hazards.md section 4, the normaliser contract). -/
def Obligations.NormaliserContract : Prop :=
  (∀ (t : Option Str) (r : Str), normalise t = some r →
    r ≠ [] ∧ ∀ c ∈ r, (0x30 ≤ c.toNat ∧ c.toNat ≤ 0x39) ∨ (0x41 ≤ c.toNat ∧ c.toNat ≤ 0x5A)) ∧
  (∀ r : Str, r ≠ [] → (∀ c ∈ r, (0x30 ≤ c.toNat ∧ c.toNat ≤ 0x39) ∨ (0x41 ≤ c.toNat ∧ c.toNat ≤ 0x5A)) →
    normalise (some r) = some r)

/-- The round trip at the software boundary: the text of a Wiegand64 code, rendered from the response to the call of
`encode`, decodes through the call of `decode` to the normalised identifier (30_encoding.md section 6, the
correspondence; 43_w64_decode.md section 3, which the spec derives; 90_conflicts.md C6). -/
def Obligations.TextRoundTrip64 : Prop :=
  ∀ (t r : Str) (s u : State), normalise (some t) = some r → r.length ≤ 10 →
    ∃ (i j : Instr) (s' u' : State) (c : BitVec 64) (rsp : Response),
      hostCall .encode64 (some t) = some i ∧ exec i s = .next s' ∧ s'.rspPort = s.rspPort ++ [.okCode64 c] ∧
      hostCall .decode64 (Response.okCode64 c).text? = some j ∧ exec j u = .next u' ∧
      u'.rspPort = u.rspPort ++ [rsp] ∧ rsp.text? = some r
end

