-- ==== Sys2Proof/Laws/Codec.lean ====
section
/-!
SUPPORT. Bit fields of concatenations, and the fields of an encoded word: what an encoder puts at a position, a decoder
reads there.
-/
namespace Sys2Proof

/-- A slice above the lower part of a concatenation is a slice of the upper part. -/
theorem extractLsb'_append_of_le {n m : Nat} (a : BitVec n) (b : BitVec m) (s l : Nat) (h : m ≤ s) :
    (a ++ b).extractLsb' s l = a.extractLsb' (s - m) l := by
  ext i hi
  rw [BitVec.getElem_extractLsb', BitVec.getElem_extractLsb', BitVec.getLsbD_append, if_neg (by omega)]
  congr 1
  omega

/-- The lower part of a concatenation. -/
theorem extractLsb'_append_zero {n m : Nat} (a : BitVec n) (b : BitVec m) : (a ++ b).extractLsb' 0 m = b := by
  ext i hi
  rw [BitVec.getElem_extractLsb', BitVec.getLsbD_append, if_pos (by omega)]
  simp [hi]

/-- A slice that fits is not changed by a change of width. -/
theorem extractLsb'_setWidth_of_le {n : Nat} (a : BitVec n) (k s l : Nat) (h : s + l ≤ k) :
    (a.setWidth k).extractLsb' s l = a.extractLsb' s l := by
  ext i hi
  rw [BitVec.getElem_extractLsb', BitVec.getElem_extractLsb', BitVec.getLsbD_setWidth]
  simp
  omega

/-- A slice as a number. -/
theorem extractLsb'_eq_ofNat (n l k : Nat) (v : BitVec n) : v.extractLsb' k l = BitVec.ofNat l (v.toNat / 2 ^ k) :=
  BitVec.eq_of_toNat_eq (by simp [BitVec.extractLsb'_toNat, Nat.shiftRight_eq_div_pow])

@[simp] theorem Kind.ofBits_toBits (k : Kind) : Kind.ofBits k.toBits = k := by cases k <;> rfl

@[simp] theorem Kind.toBits_ofBits (b : BitVec 2) : (Kind.ofBits b).toBits = b := by revert b; decide

@[simp] theorem encodeId_len (op : BitVec 4) (id : IdOperand) : (encodeId op id).len = 93 := rfl

@[simp] theorem encodeCode_len (op : BitVec 4) (code : CodeOperand) : (encodeCode op code).len = 70 := rfl

@[simp] theorem encodeReserved_len (op : BitVec 4) : (encodeReserved op).len = 4 := rfl

@[simp] theorem encodeId_op (op : BitVec 4) (id : IdOperand) : (encodeId op id).op = op := by
  simp (disch := omega) only [CmdWord.op, encodeId, extractLsb'_setWidth_of_le, extractLsb'_append_of_le,
    Config.opLen, Nat.reduceSub, BitVec.extractLsb'_eq_self]

@[simp] theorem encodeCode_op (op : BitVec 4) (code : CodeOperand) : (encodeCode op code).op = op := by
  simp (disch := omega) only [CmdWord.op, encodeCode, extractLsb'_setWidth_of_le, extractLsb'_append_of_le,
    Config.opLen, Nat.reduceSub, BitVec.extractLsb'_eq_self]

@[simp] theorem encodeReserved_op (op : BitVec 4) : (encodeReserved op).op = op := by
  revert op; decide

/-- A word of at least four bits is decoded by its opcode (R79). -/
theorem decode_of_op (w : CmdWord) (op : BitVec 4) (h : w.op = op) (hl : 4 ≤ w.len) :
    decode w = decodeOp w (op.getLsbD 3) (op.extractLsb' 0 3) := by
  unfold decode
  rw [if_neg (by simp [Config.opLen]; omega), h]

end Sys2Proof
end

