-- ==== Sys2Proof/Laws/State.lean ====
section
/-!
SUPPORT. One lemma per field per state update, each true by unfolding, so that no later proof unfolds an update.
-/
namespace Sys2Proof.Machine

variable (s : State)

@[simp] theorem State.emit_phase (r : Response) : (s.emit r).phase = s.phase := rfl
@[simp] theorem State.emit_latch (r : Response) : (s.emit r).latch = s.latch := rfl
@[simp] theorem State.emit_cmdPort (r : Response) : (s.emit r).cmdPort = s.cmdPort := rfl
@[simp] theorem State.emit_rspPort (r : Response) : (s.emit r).rspPort = s.rspPort ++ [r] := rfl
@[simp] theorem State.emit_dreq (r : Response) : (s.emit r).dreq = s.dreq := rfl
@[simp] theorem State.emit_dans (r : Response) : (s.emit r).dans = s.dans := rfl
@[simp] theorem State.emit_agenda (r : Response) : (s.emit r).agenda = s.agenda := rfl
@[simp] theorem State.emit_fresh (r : Response) : (s.emit r).fresh = s.fresh := rfl
@[simp] theorem State.emit_unanswered (r : Response) : (s.emit r).unanswered = s.unanswered := rfl

@[simp] theorem State.setPhase_phase (p : Phase) : (s.setPhase p).phase = p := rfl
@[simp] theorem State.setPhase_latch (p : Phase) : (s.setPhase p).latch = s.latch := rfl
@[simp] theorem State.setPhase_cmdPort (p : Phase) : (s.setPhase p).cmdPort = s.cmdPort := rfl
@[simp] theorem State.setPhase_rspPort (p : Phase) : (s.setPhase p).rspPort = s.rspPort := rfl
@[simp] theorem State.setPhase_dreq (p : Phase) : (s.setPhase p).dreq = s.dreq := rfl
@[simp] theorem State.setPhase_dans (p : Phase) : (s.setPhase p).dans = s.dans := rfl
@[simp] theorem State.setPhase_agenda (p : Phase) : (s.setPhase p).agenda = s.agenda := rfl
@[simp] theorem State.setPhase_fresh (p : Phase) : (s.setPhase p).fresh = s.fresh := rfl
@[simp] theorem State.setPhase_unanswered (p : Phase) : (s.setPhase p).unanswered = s.unanswered := rfl

@[simp] theorem State.closeChannel_phase : (s.closeChannel).phase = s.phase := rfl
@[simp] theorem State.closeChannel_latch : (s.closeChannel).latch = Config.freeLatch s.fresh := rfl
@[simp] theorem State.closeChannel_cmdPort : (s.closeChannel).cmdPort = s.cmdPort := rfl
@[simp] theorem State.closeChannel_rspPort : (s.closeChannel).rspPort = s.rspPort := rfl
@[simp] theorem State.closeChannel_dreq : (s.closeChannel).dreq = none := rfl
@[simp] theorem State.closeChannel_dans : (s.closeChannel).dans = none := rfl
@[simp] theorem State.closeChannel_agenda : (s.closeChannel).agenda = s.agenda := rfl
@[simp] theorem State.closeChannel_fresh : (s.closeChannel).fresh = s.fresh + 1 := rfl
@[simp] theorem State.closeChannel_unanswered : (s.closeChannel).unanswered = s.unanswered := rfl

@[simp] theorem State.present_phase (w : CmdWord) : (s.present w).phase = s.phase := rfl
@[simp] theorem State.present_latch (w : CmdWord) : (s.present w).latch = s.latch := rfl
@[simp] theorem State.present_cmdPort (w : CmdWord) : (s.present w).cmdPort = s.cmdPort ++ [w] := rfl
@[simp] theorem State.present_rspPort (w : CmdWord) : (s.present w).rspPort = s.rspPort := rfl
@[simp] theorem State.present_dreq (w : CmdWord) : (s.present w).dreq = s.dreq := rfl
@[simp] theorem State.present_dans (w : CmdWord) : (s.present w).dans = s.dans := rfl
@[simp] theorem State.present_agenda (w : CmdWord) : (s.present w).agenda = s.agenda := rfl
@[simp] theorem State.present_fresh (w : CmdWord) : (s.present w).fresh = s.fresh := rfl
@[simp] theorem State.present_unanswered (w : CmdWord) : (s.present w).unanswered = s.unanswered := rfl

@[simp] theorem State.readResponse_phase : (s.readResponse).phase = s.phase := rfl
@[simp] theorem State.readResponse_latch : (s.readResponse).latch = s.latch := rfl
@[simp] theorem State.readResponse_cmdPort : (s.readResponse).cmdPort = s.cmdPort := rfl
@[simp] theorem State.readResponse_rspPort : (s.readResponse).rspPort = s.rspPort.tail := rfl
@[simp] theorem State.readResponse_dreq : (s.readResponse).dreq = s.dreq := rfl
@[simp] theorem State.readResponse_dans : (s.readResponse).dans = s.dans := rfl
@[simp] theorem State.readResponse_agenda : (s.readResponse).agenda = s.agenda := rfl
@[simp] theorem State.readResponse_fresh : (s.readResponse).fresh = s.fresh := rfl
@[simp] theorem State.readResponse_unanswered : (s.readResponse).unanswered = s.unanswered := rfl

@[simp] theorem State.assertReset_phase : (s.assertReset).phase = .idle := rfl
@[simp] theorem State.assertReset_latch : (s.assertReset).latch = Config.freeLatch s.fresh := rfl
@[simp] theorem State.assertReset_cmdPort : (s.assertReset).cmdPort = [] := rfl
@[simp] theorem State.assertReset_rspPort : (s.assertReset).rspPort = [] := rfl
@[simp] theorem State.assertReset_dreq : (s.assertReset).dreq = none := rfl
@[simp] theorem State.assertReset_dans : (s.assertReset).dans = none := rfl
@[simp] theorem State.assertReset_agenda : (s.assertReset).agenda = s.agenda := rfl
@[simp] theorem State.assertReset_fresh : (s.assertReset).fresh = s.fresh + 1 := rfl
@[simp] theorem State.assertReset_unanswered : (s.assertReset).unanswered = s.outstanding + s.rspPort.length := rfl

@[simp] theorem placeCommand_phase (w : CmdWord) : (placeCommand w s).phase = .idle := rfl
@[simp] theorem placeCommand_latch (w : CmdWord) : (placeCommand w s).latch = s.latch := rfl
@[simp] theorem placeCommand_cmdPort (w : CmdWord) : (placeCommand w s).cmdPort = w :: s.cmdPort := rfl
@[simp] theorem placeCommand_rspPort (w : CmdWord) : (placeCommand w s).rspPort = s.rspPort := rfl
@[simp] theorem placeCommand_dreq (w : CmdWord) : (placeCommand w s).dreq = s.dreq := rfl
@[simp] theorem placeCommand_dans (w : CmdWord) : (placeCommand w s).dans = s.dans := rfl
@[simp] theorem placeCommand_agenda (w : CmdWord) : (placeCommand w s).agenda = .core :: s.agenda := rfl
@[simp] theorem placeCommand_fresh (w : CmdWord) : (placeCommand w s).fresh = s.fresh := rfl
@[simp] theorem placeCommand_unanswered (w : CmdWord) : (placeCommand w s).unanswered = s.unanswered := rfl

@[simp] theorem State.answer_phase (a : DigestAnswer) : (s.answer a).phase = s.phase := by
  unfold State.answer; split <;> rfl
@[simp] theorem State.answer_latch (a : DigestAnswer) : (s.answer a).latch = s.latch := by
  unfold State.answer; split <;> rfl
@[simp] theorem State.answer_cmdPort (a : DigestAnswer) : (s.answer a).cmdPort = s.cmdPort := by
  unfold State.answer; split <;> rfl
@[simp] theorem State.answer_rspPort (a : DigestAnswer) : (s.answer a).rspPort = s.rspPort := by
  unfold State.answer; split <;> rfl
@[simp] theorem State.answer_dreq (a : DigestAnswer) : (s.answer a).dreq = s.dreq := by
  unfold State.answer; split <;> rfl
@[simp] theorem State.answer_agenda (a : DigestAnswer) : (s.answer a).agenda = s.agenda := by
  unfold State.answer; split <;> rfl
@[simp] theorem State.answer_fresh (a : DigestAnswer) : (s.answer a).fresh = s.fresh := by
  unfold State.answer; split <;> rfl
@[simp] theorem State.answer_unanswered (a : DigestAnswer) : (s.answer a).unanswered = s.unanswered := by
  unfold State.answer; split <;> rfl

/-! The commands without a response (R206): they depend on the command port, on PHASE and on the count alone. -/

theorem State.outstanding_congr {s t : State} (hp : t.phase = s.phase) (hc : t.cmdPort = s.cmdPort)
    (hu : t.unanswered = s.unanswered) : t.outstanding = s.outstanding := by
  rw [State.outstanding, State.outstanding, hp, hc, hu]

@[simp] theorem State.present_outstanding (w : CmdWord) : (s.present w).outstanding = s.outstanding + 1 := by
  rw [State.outstanding, State.outstanding, State.present_phase, State.present_cmdPort, State.present_unanswered,
    List.length_append, List.length_singleton]
  omega

@[simp] theorem State.readResponse_outstanding : (s.readResponse).outstanding = s.outstanding := rfl

@[simp] theorem State.assertReset_outstanding :
    (s.assertReset).outstanding = s.outstanding + s.rspPort.length :=
  Nat.zero_add _

@[simp] theorem State.answer_outstanding (a : DigestAnswer) : (s.answer a).outstanding = s.outstanding :=
  State.outstanding_congr (s.answer_phase a) (s.answer_cmdPort a) (s.answer_unanswered a)

/-- The answer is put on the channel in WAIT_DIGEST when none stands there. -/
theorem State.answer_arrives (a : DigestAnswer) (hp : s.phase = .waitDigest) (hd : s.dans = none) :
    s.answer a = { s with dans := some a } := by
  simp [State.answer, hp, hd]

/-- Everywhere else it is discarded. -/
theorem State.answer_discarded (a : DigestAnswer) (h : ¬(s.phase = .waitDigest ∧ s.dans = none)) :
    s.answer a = s := by
  simp [State.answer, h]

end Sys2Proof.Machine
end

