-- ==== Sys2Proof/Laws/Ops.lean ====
section
/-!
SUPPORT. What each shared operation of the machine can do, said once: the primitives that end a command, the operand
tests, the shared validation, the digest unit's moves, and the cases of a step.
-/
namespace Sys2Proof.Machine

/-! The primitives of R11: each answers exactly this next state. -/

theorem ok_eq (r : Response) (s : State) :
    ok r s = .next { s with phase := .idle, rspPort := s.rspPort ++ [r] } := rfl

theorem absent_eq (s : State) :
    absent s = .next { s with phase := .idle, rspPort := s.rspPort ++ [.absent] } := rfl

theorem raise_eq (e : ErrorKind) (s : State) :
    raise e s = .next { s with rspPort := s.rspPort ++ [e.response] } := rfl

theorem fatal_eq (s : State) :
    fatal s = .next { s with phase := .faulted, rspPort := s.rspPort ++ [.fatalDigest] } := rfl

theorem awaitDigest_eq (t : Str) (s : State) :
    awaitDigest t s = .next { s with phase := .waitDigest, latch := t, dreq := some t, dans := none } := rfl

theorem completeW26Enc_eq (d : Digest) (s : State) :
    completeW26Enc d s = .next { s.closeChannel with
      phase := .idle
      rspPort := s.rspPort ++ [.okFrame (slice26 (assemble (pack26 (inj24 d))))] } := rfl

theorem failW26Enc_eq (s : State) :
    failW26Enc s = .next { s.closeChannel with phase := .faulted, rspPort := s.rspPort ++ [.fatalDigest] } := rfl

/-! The operand tests (R63, R64, R120). -/

theorem isAbsent_iff (id : IdOperand) : id.isAbsent = true ↔ id.present = false ∨ id.len = 0#8 := by
  simp [IdOperand.isAbsent]

theorem isAbsent_eq_false_iff (id : IdOperand) : id.isAbsent = false ↔ id.present = true ∧ id.len ≠ 0#8 := by
  simp [IdOperand.isAbsent]

theorem isTooLong_iff (id : IdOperand) : id.isTooLong = true ↔ 10 < id.len.toNat := by
  simp [IdOperand.isTooLong]

theorem isTooLong_eq_false_iff (id : IdOperand) : id.isTooLong = false ↔ id.len.toNat ≤ 10 := by
  simp [IdOperand.isTooLong]

theorem isNone_iff (code : CodeOperand) : code.isNone = true ↔ code.kind = .absent ∨ code.kind = .blank := by
  cases h : code.kind <;> simp [CodeOperand.isNone, h]

/-- VALID26 refuses exactly what does not fit 26 bits (R120). -/
theorem valid26_eq_none_iff (code : CodeOperand) :
    code.valid26 = none ↔ code.kind ≠ .value ∨ 2 ^ 26 ≤ code.val.toNat := by
  cases h : code.kind <;> simp [CodeOperand.valid26, Config.frameLimit, h]

/-- VALID26 answers the value itself (R120). -/
theorem valid26_eq_some_iff (code : CodeOperand) (b : Frame) :
    code.valid26 = some b ↔ code.kind = .value ∧ b.toNat = code.val.toNat := by
  have hb := b.isLt
  cases h : code.kind <;> simp [CodeOperand.valid26, Config.frameLimit, h, ← BitVec.toNat_inj]
  omega

/-! What each meaning can do: it answers a next state, and which. -/

/-- A `W26.ENC` ends in one of three next states (R100). -/
theorem execW26Enc_cases (id : IdOperand) (s : State) :
    ((id.present = false ∨ id.len = 0#8) ∧ execW26Enc id s = absent s) ∨
    (id.present = true ∧ 10 < id.len.toNat ∧ execW26Enc id s = raise .inputTooLong s) ∨
    (id.present = true ∧ 1 ≤ id.len.toNat ∧ id.len.toNat ≤ 10 ∧ execW26Enc id s = awaitDigest id.text s) := by
  unfold execW26Enc
  cases ha : id.isAbsent
  · obtain ⟨hp, hl⟩ := (isAbsent_eq_false_iff id).1 ha
    have h0 : id.len.toNat ≠ 0 := fun h => hl (BitVec.eq_of_toNat_eq h)
    cases ht : id.isTooLong
    · have := (isTooLong_eq_false_iff id).1 ht
      exact .inr (.inr ⟨hp, by omega, this, by simp⟩)
    · exact .inr (.inl ⟨hp, (isTooLong_iff id).1 ht, by simp⟩)
  · exact .inl ⟨(isAbsent_iff id).1 ha, by simp⟩

/-- A `W64.ENC` ends in one of three next states (R140). -/
theorem execW64Enc_cases (id : IdOperand) (s : State) :
    ((id.present = false ∨ id.len = 0#8) ∧ execW64Enc id s = absent s) ∨
    (id.present = true ∧ 10 < id.len.toNat ∧ execW64Enc id s = raise .inputTooLong s) ∨
    (id.present = true ∧ 1 ≤ id.len.toNat ∧ id.len.toNat ≤ 10 ∧
      execW64Enc id s = ok (.okCode64 (pack64 ((pad10 id.text).map alpha))) s) := by
  unfold execW64Enc
  cases ha : id.isAbsent
  · obtain ⟨hp, hl⟩ := (isAbsent_eq_false_iff id).1 ha
    have h0 : id.len.toNat ≠ 0 := fun h => hl (BitVec.eq_of_toNat_eq h)
    cases ht : id.isTooLong
    · have := (isTooLong_eq_false_iff id).1 ht
      exact .inr (.inr ⟨hp, by omega, this, by simp⟩)
    · exact .inr (.inl ⟨hp, (isTooLong_iff id).1 ht, by simp⟩)
  · exact .inl ⟨(isAbsent_iff id).1 ha, by simp⟩

/-- A `W26.DEC` ends in one of three next states (R121). -/
theorem execW26Dec_cases (code : CodeOperand) (s : State) :
    ((code.kind = .absent ∨ code.kind = .blank) ∧ execW26Dec code s = absent s) ∨
    ((code.kind = .ovf ∨ (code.kind = .value ∧ 2 ^ 26 ≤ code.val.toNat)) ∧
      execW26Dec code s = raise .malformedInput s) ∨
    (code.kind = .value ∧ ∃ b : Frame, b.toNat = code.val.toNat ∧
      execW26Dec code s = ok (.okFrame (slice26 b)) s) := by
  unfold execW26Dec
  cases hn : code.isNone
  · have hk : ¬(code.kind = .absent ∨ code.kind = .blank) := by simp [← isNone_iff, hn]
    cases hv : code.valid26 with
    | none =>
      refine .inr (.inl ⟨?_, by simp⟩)
      rcases (valid26_eq_none_iff code).1 hv with h | h
      · cases hc : code.kind <;> simp_all
      · cases hc : code.kind <;> simp_all
    | some b =>
      obtain ⟨h1, h2⟩ := (valid26_eq_some_iff code b).1 hv
      exact .inr (.inr ⟨h1, b, h2, by simp⟩)
  · exact .inl ⟨(isNone_iff code).1 hn, by simp⟩

/-- An accessor ends in one of two next states (R124 to R126). -/
theorem readField_cases (f : Frame → BitVec 24) (code : CodeOperand) (s : State) :
    ((code.kind ≠ .value ∨ 2 ^ 26 ≤ code.val.toNat) ∧ readField f code s = raise .malformedInput s) ∨
    (code.kind = .value ∧ ∃ b : Frame, b.toNat = code.val.toNat ∧ readField f code s = ok (.okAcc (f b)) s) := by
  unfold readField
  cases hv : code.valid26 with
  | none => exact .inl ⟨(valid26_eq_none_iff code).1 hv, rfl⟩
  | some b =>
    obtain ⟨h1, h2⟩ := (valid26_eq_some_iff code b).1 hv
    exact .inr ⟨h1, b, h2, rfl⟩

/-- A `W64.DEC` ends in one of two next states (R155). -/
theorem execW64Dec_cases (code : CodeOperand) (s : State) :
    ((code.kind = .absent ∨ code.kind = .blank) ∧ execW64Dec code s = absent s) ∨
    ((code.kind = .value ∨ code.kind = .ovf) ∧ execW64Dec code s = ok (textResponse code.val) s) := by
  unfold execW64Dec
  cases hk : code.kind <;> simp [CodeOperand.isNone, hk]

/-- Every issued command has its response exactly when none is held, none waits, and no reset left one without (R206). -/
theorem State.outstanding_eq_zero_iff (s : State) :
    s.outstanding = 0 ↔ s.cmdPort = [] ∧ s.phase ≠ .waitDigest ∧ s.unanswered = 0 := by
  simp [State.outstanding, and_assoc]

/-! The sequencer. -/

/-- The digest unit's "ok" leaves everything but the answer alone. -/
theorem State.digestOk_cases (s : State) :
    s.digestOk = s ∨
      ∃ t, s.dreq = some t ∧ s.phase = .waitDigest ∧ s.dans = none ∧
        s.digestOk = { s with dans := some (.ok (Config.digest t)) } := by
  unfold State.digestOk
  cases hq : s.dreq with
  | none => exact .inl rfl
  | some t =>
    by_cases h : s.phase = .waitDigest ∧ s.dans = none
    · exact .inr ⟨t, rfl, h.1, h.2, by simp [State.answer, h, hq]⟩
    · exact .inl (s.answer_discarded _ h)

/-- The digest unit's "unavailable" leaves everything but the answer alone. -/
theorem State.digestFail_cases (s : State) :
    s.digestFail = s ∨
      ∃ t, s.dreq = some t ∧ s.phase = .waitDigest ∧ s.dans = none ∧ s.digestFail = { s with dans := some .fail } := by
  unfold State.digestFail
  cases hq : s.dreq with
  | none => exact .inl rfl
  | some t =>
    by_cases h : s.phase = .waitDigest ∧ s.dans = none
    · exact .inr ⟨t, rfl, h.1, h.2, by simp [State.answer, h, hq]⟩
    · exact .inl (s.answer_discarded _ h)

/-- What a turn of the core can do when it answers a next state: wait or refuse to accept (nothing changes), run the
command at the port, answer the pending `W26.ENC`, or fault (R21, R204). -/
theorem coreTurn_cases {s t : State} (h : coreTurn s = .next t) :
    t = s ∨
    (s.phase = .idle ∧ ∃ w rest i, s.cmdPort = w :: rest ∧ decode w = .ok i ∧
      exec i { s with cmdPort := rest } = .next t) ∨
    (s.phase = .waitDigest ∧ ∃ d, s.dans = some (.ok d) ∧ completeW26Enc d s = .next t) ∨
    (s.phase = .waitDigest ∧ s.dans = some .fail ∧ failW26Enc s = .next t) := by
  unfold coreTurn at h
  cases hp : s.phase with
  | idle =>
    cases hc : s.cmdPort with
    | nil => rw [hp, hc] at h; exact .inl (by cases h; rfl)
    | cons w rest =>
      rw [hp, hc] at h
      simp only [accept] at h
      cases hd : decode w with
      | error r => simp [hd] at h
      | ok i => exact .inr (.inl ⟨rfl, w, rest, i, rfl, hd, by simpa [hd, hp] using h⟩)
  | waitDigest =>
    cases hd : s.dans with
    | none => rw [hp, hd] at h; exact .inl (by cases h; rfl)
    | some a =>
      rw [hp, hd] at h
      cases a with
      | ok d => exact .inr (.inr (.inl ⟨rfl, d, rfl, h⟩))
      | fail => exact .inr (.inr (.inr ⟨rfl, rfl, h⟩))
  | faulted => rw [hp] at h; exact .inl (by cases h; rfl)

/-- What a step can do: a turn of the core, or the first move of the agenda. -/
theorem step_cases {s t : State} (h : step s = .next t) :
    ((s.agenda = [] ∨ s.agenda.head? = some .core) ∧ coreTurn { s with agenda := s.agenda.tail } = .next t) ∨
    ∃ m rest, s.agenda = m :: rest ∧ m ≠ .core ∧ move m { s with agenda := rest } = .next t := by
  unfold step at h
  cases ha : s.agenda with
  | nil =>
    rw [ha] at h
    refine .inl ⟨.inl rfl, ?_⟩
    have : ({ s with agenda := [].tail } : State) = s := by cases s; simp_all
    rw [this]; exact h
  | cons m rest =>
    rw [ha] at h
    by_cases hm : m = .core
    · subst hm; exact .inl ⟨.inr rfl, h⟩
    · exact .inr ⟨m, rest, rfl, hm, h⟩

end Sys2Proof.Machine
end

