-- ==== Sys2Proof/Laws/Exec.lean ====
section
/-!
SUPPORT. What a command can do, said once for all instructions: whatever the state, it is one and the same primitive of
R11, or it is refused as a reserved opcode.
-/
namespace Sys2Proof.Machine

/-- A meaning that is the same primitive in every state. -/
def IsPrimitive (f : State → Result) : Prop :=
  (∃ r, ∀ s, f s = ok r s) ∨ (∀ s, f s = absent s) ∨ (∃ e, ∀ s, f s = raise e s) ∨ (∃ t, ∀ s, f s = awaitDigest t s)

theorem IsPrimitive.ok (r : Response) : IsPrimitive (Machine.ok r) := .inl ⟨r, fun _ => rfl⟩

theorem IsPrimitive.absent : IsPrimitive Machine.absent := .inr (.inl fun _ => rfl)

theorem IsPrimitive.raise (e : ErrorKind) : IsPrimitive (Machine.raise e) := .inr (.inr (.inl ⟨e, fun _ => rfl⟩))

theorem IsPrimitive.awaitDigest (t : Str) : IsPrimitive (Machine.awaitDigest t) :=
  .inr (.inr (.inr ⟨t, fun _ => rfl⟩))

theorem IsPrimitive.ite {c : Bool} {f g : State → Result} (hf : IsPrimitive f) (hg : IsPrimitive g) :
    IsPrimitive fun s => if c then f s else g s := by
  cases c
  · simpa using hg
  · simpa using hf

theorem readField_isPrimitive (f : Frame → BitVec 24) (code : CodeOperand) : IsPrimitive (readField f code) := by
  unfold readField
  cases code.valid26 with
  | none => exact .raise _
  | some b => exact .ok _

/-- Every one of the seven operations is one primitive, chosen by its operand alone (R31, R176). -/
theorem exec_isPrimitive (i : Instr) (h : i.isReserved = false) : IsPrimitive (exec i) := by
  cases i <;> first | (simp [Instr.isReserved] at h; done) | skip
  case w26Enc id => exact .ite .absent (.ite (.raise _) (.awaitDigest _))
  case w64Enc id => exact .ite .absent (.ite (.raise _) (.ok _))
  case w26Dec code =>
    refine .ite .absent ?_
    cases code.valid26 with
    | none => exact .raise _
    | some b => exact .ok _
  case w64Dec code => exact .ite .absent (.ok _)
  all_goals exact readField_isPrimitive _ _

/-- A reserved opcode has no next state (R62). -/
theorem exec_reserved (i : Instr) (s : State) (h : i.isReserved = true) : ∃ op, exec i s = .refused (.reservedOpcode op) := by
  cases i <;> first | (simp [Instr.isReserved] at h; done) | exact ⟨_, rfl⟩

/-- If a command answers a next state, it is this one of a primitive. -/
theorem exec_next_cases {i : Instr} {s t : State} (h : exec i s = .next t) :
    (∃ r, t = { s with phase := .idle, rspPort := s.rspPort ++ [r] }) ∨
    (∃ r, t = { s with rspPort := s.rspPort ++ [r] }) ∨
    (∃ q, t = { s with phase := .waitDigest, latch := q, dreq := some q, dans := none }) := by
  cases hr : i.isReserved
  · obtain ⟨r, e⟩ | e | ⟨k, e⟩ | ⟨q, e⟩ := exec_isPrimitive i hr
    · rw [e, ok_eq] at h; cases h; exact .inl ⟨r, rfl⟩
    · rw [e, absent_eq] at h; cases h; exact .inl ⟨_, rfl⟩
    · rw [e, raise_eq] at h; cases h; exact .inr (.inl ⟨_, rfl⟩)
    · rw [e, awaitDigest_eq] at h; cases h; exact .inr (.inr ⟨q, rfl⟩)
  · obtain ⟨op, e⟩ := exec_reserved i s hr
    rw [e] at h; cases h

/-- A command that waits for a digest is a `W26.ENC` of 1 to 10 characters, and the request is its text (R25, R100). -/
theorem exec_awaits {i : Instr} {s t : State} (h : exec i s = .next t) (hp : t.phase = .waitDigest)
    (hs : s.phase ≠ .waitDigest) :
    ∃ id, i = .w26Enc id ∧ id.present = true ∧ 1 ≤ id.len.toNat ∧ id.len.toNat ≤ 10 ∧
      t = { s with phase := .waitDigest, latch := id.text, dreq := some id.text, dans := none } := by
  have no : ∀ r, t ≠ { s with phase := .idle, rspPort := s.rspPort ++ [r] } := by
    rintro r rfl; simp at hp
  have no' : ∀ r, t ≠ { s with rspPort := s.rspPort ++ [r] } := by
    rintro r rfl; exact hs hp
  cases i
  case w26Enc id =>
    have h : execW26Enc id s = .next t := h
    obtain ⟨_, e⟩ | ⟨_, _, e⟩ | ⟨h1, h2, h3, e⟩ := execW26Enc_cases id s
    · rw [e, absent_eq] at h; cases h; exact absurd rfl (no _)
    · rw [e, raise_eq] at h; cases h; exact absurd rfl (no' _)
    · rw [e, awaitDigest_eq] at h; cases h; exact ⟨id, rfl, h1, h2, h3, rfl⟩
  case w64Enc id =>
    have h : execW64Enc id s = .next t := h
    obtain ⟨_, e⟩ | ⟨_, _, e⟩ | ⟨_, _, _, e⟩ := execW64Enc_cases id s
    · rw [e, absent_eq] at h; cases h; exact absurd rfl (no _)
    · rw [e, raise_eq] at h; cases h; exact absurd rfl (no' _)
    · rw [e, ok_eq] at h; cases h; exact absurd rfl (no _)
  case w26Dec code =>
    have h : execW26Dec code s = .next t := h
    obtain ⟨_, e⟩ | ⟨_, e⟩ | ⟨_, _, _, e⟩ := execW26Dec_cases code s
    · rw [e, absent_eq] at h; cases h; exact absurd rfl (no _)
    · rw [e, raise_eq] at h; cases h; exact absurd rfl (no' _)
    · rw [e, ok_eq] at h; cases h; exact absurd rfl (no _)
  case w64Dec code =>
    have h : execW64Dec code s = .next t := h
    obtain ⟨_, e⟩ | ⟨_, e⟩ := execW64Dec_cases code s
    · rw [e, absent_eq] at h; cases h; exact absurd rfl (no _)
    · rw [e, ok_eq] at h; cases h; exact absurd rfl (no _)
  case w26Rdfc code =>
    have h : readField _ code s = .next t := h
    obtain ⟨_, e⟩ | ⟨_, _, _, e⟩ := readField_cases _ code s
    · rw [e, raise_eq] at h; cases h; exact absurd rfl (no' _)
    · rw [e, ok_eq] at h; cases h; exact absurd rfl (no _)
  case w26Rdid code =>
    have h : readField _ code s = .next t := h
    obtain ⟨_, e⟩ | ⟨_, _, _, e⟩ := readField_cases _ code s
    · rw [e, raise_eq] at h; cases h; exact absurd rfl (no' _)
    · rw [e, ok_eq] at h; cases h; exact absurd rfl (no _)
  case w26Rdpay code =>
    have h : readField _ code s = .next t := h
    obtain ⟨_, e⟩ | ⟨_, _, _, e⟩ := readField_cases _ code s
    · rw [e, raise_eq] at h; cases h; exact absurd rfl (no' _)
    · rw [e, ok_eq] at h; cases h; exact absurd rfl (no _)
  all_goals exact nomatch h

end Sys2Proof.Machine
end

