-- ==== Sys2Proof/Laws/PerInstr.lean ====
section
/-!
SUPPORT. The family `EncodedForm`: for each instruction, its encoded word carries its opcode at the top and has the
length of its format (30_encoding.md R60, R61, R78).
-/
namespace Sys2Proof.Laws.EncodedForm

/-- The length in bits of an instruction's word: 93 for format I, 70 for format C, 4 for a reserved opcode. -/
def length : Instr → Nat
  | .w26Enc _ => 93
  | .w26Dec _ => 70
  | .w26Rdfc _ => 70
  | .w26Rdid _ => 70
  | .w26Rdpay _ => 70
  | .w64Enc _ => 93
  | .w64Dec _ => 70
  | .reserved5 => 4
  | .reserved6 => 4
  | .reserved7 => 4
  | .reservedA => 4
  | .reservedB => 4
  | .reservedC => 4
  | .reservedD => 4
  | .reservedE => 4
  | .reservedF => 4

/-- The word of `i` starts with the opcode of `i` and has the length of its format. -/
def Statement (i : Instr) : Prop :=
  (encode i).op = i.opcode ∧ (encode i).len = length i

theorem w26Enc (id : IdOperand) : Statement (.w26Enc id) := ⟨encodeId_op _ _, rfl⟩
theorem w26Dec (code : CodeOperand) : Statement (.w26Dec code) := ⟨encodeCode_op _ _, rfl⟩
theorem w26Rdfc (code : CodeOperand) : Statement (.w26Rdfc code) := ⟨encodeCode_op _ _, rfl⟩
theorem w26Rdid (code : CodeOperand) : Statement (.w26Rdid code) := ⟨encodeCode_op _ _, rfl⟩
theorem w26Rdpay (code : CodeOperand) : Statement (.w26Rdpay code) := ⟨encodeCode_op _ _, rfl⟩
theorem w64Enc (id : IdOperand) : Statement (.w64Enc id) := ⟨encodeId_op _ _, rfl⟩
theorem w64Dec (code : CodeOperand) : Statement (.w64Dec code) := ⟨encodeCode_op _ _, rfl⟩
theorem reserved5 : Statement .reserved5 := ⟨encodeReserved_op _, rfl⟩
theorem reserved6 : Statement .reserved6 := ⟨encodeReserved_op _, rfl⟩
theorem reserved7 : Statement .reserved7 := ⟨encodeReserved_op _, rfl⟩
theorem reservedA : Statement .reservedA := ⟨encodeReserved_op _, rfl⟩
theorem reservedB : Statement .reservedB := ⟨encodeReserved_op _, rfl⟩
theorem reservedC : Statement .reservedC := ⟨encodeReserved_op _, rfl⟩
theorem reservedD : Statement .reservedD := ⟨encodeReserved_op _, rfl⟩
theorem reservedE : Statement .reservedE := ⟨encodeReserved_op _, rfl⟩
theorem reservedF : Statement .reservedF := ⟨encodeReserved_op _, rfl⟩

end Sys2Proof.Laws.EncodedForm
end

