-- ==== Sys2Proof/Laws/Step.lean ====
section
/-!
SUPPORT. What a step can do, said once with every agent's move taken apart: each invariant of the machine is a case
analysis of `step_next_cases`.
-/
namespace Sys2Proof.Machine

/-- The core has the turn. -/
abbrev State.coresTurn (s : State) : Prop :=
  s.agenda = [] ∨ s.agenda.head? = some .core

/-- The state with the first move of the agenda taken. -/
abbrev State.popMove (s : State) : State :=
  { s with agenda := s.agenda.tail }

theorem popMove_of_agenda_nil (s : State) (h : s.agenda = []) : s.popMove = s := by
  cases s; simp_all

/-- A step on the core's turn is the core's turn. -/
theorem step_of_coresTurn (s : State) (h : s.coresTurn) : step s = coreTurn s.popMove := by
  unfold step
  rcases h with h | h
  · rw [popMove_of_agenda_nil s h, h]; rfl
  · cases ha : s.agenda with
    | nil => rw [ha] at h; simp at h
    | cons m rest =>
      rw [ha] at h
      simp only [List.head?_cons, Option.some.injEq] at h
      subst h
      simp [ha, move, State.popMove]

/-- If a step answers a next state, one of nine things has happened. -/
theorem step_next_cases {s t : State} (h : step s = .next t) :
    (s.coresTurn ∧ t = s.popMove) ∨
    (s.coresTurn ∧ s.phase = .idle ∧ ∃ w rest i, s.cmdPort = w :: rest ∧ decode w = .ok i ∧
      exec i { s.popMove with cmdPort := rest } = .next t) ∨
    (s.coresTurn ∧ s.phase = .waitDigest ∧ ∃ d, s.dans = some (.ok d) ∧ completeW26Enc d s.popMove = .next t) ∨
    (s.coresTurn ∧ s.phase = .waitDigest ∧ s.dans = some .fail ∧ failW26Enc s.popMove = .next t) ∨
    (∃ w, t = s.popMove.present w ∧ (s.agenda.head? = some (.present w) ∨
      ∃ f x i, s.agenda.head? = some (.call f x) ∧ hostCall f x = some i ∧ w = encode i)) ∨
    (s.agenda.head? = some .readResponse ∧ t = s.popMove.readResponse) ∨
    (s.agenda.head? = some .assertReset ∧ t = s.popMove.assertReset) ∨
    (s.agenda.head? = some .digestOk ∧ t = s.popMove.digestOk) ∨
    (s.agenda.head? = some .digestFail ∧ t = s.popMove.digestFail) := by
  obtain ⟨ha, hc⟩ | ⟨m, rest, ha, hm, hmove⟩ := step_cases h
  · obtain rfl | ⟨hp, w, rest, i, h1, h2, h3⟩ | ⟨hp, d, h1, h2⟩ | ⟨hp, h1, h2⟩ := coreTurn_cases hc
    · exact .inl ⟨ha, rfl⟩
    · exact .inr (.inl ⟨ha, hp, w, rest, i, h1, h2, h3⟩)
    · exact .inr (.inr (.inl ⟨ha, hp, d, h1, h2⟩))
    · exact .inr (.inr (.inr (.inl ⟨ha, hp, h1, h2⟩)))
  · have ht : s.agenda.tail = rest := by rw [ha]; rfl
    have hh : s.agenda.head? = some m := by rw [ha]; rfl
    have hpop : s.popMove = { s with agenda := rest } := by rw [← ht]
    rw [hh, hpop]
    cases m with
    | core => contradiction
    | present w => cases hmove; exact .inr (.inr (.inr (.inr (.inl ⟨w, rfl, .inl rfl⟩))))
    | call f x =>
      simp only [move, callOp] at hmove
      cases hx : hostCall f x with
      | none => rw [hx] at hmove; cases hmove
      | some i => rw [hx] at hmove; cases hmove; exact .inr (.inr (.inr (.inr (.inl ⟨encode i, rfl, .inr ⟨f, x, i, rfl, hx, rfl⟩⟩))))
    | readResponse => cases hmove; exact .inr (.inr (.inr (.inr (.inr (.inl ⟨rfl, rfl⟩)))))
    | assertReset => cases hmove; exact .inr (.inr (.inr (.inr (.inr (.inr (.inl ⟨rfl, rfl⟩))))))
    | digestOk => cases hmove; exact .inr (.inr (.inr (.inr (.inr (.inr (.inr (.inl ⟨rfl, rfl⟩)))))))
    | digestFail => cases hmove; exact .inr (.inr (.inr (.inr (.inr (.inr (.inr (.inr ⟨rfl, rfl⟩)))))))

/-- The digest unit's moves touch the answer only. -/
theorem digestOk_frame (s : State) :
    s.digestOk.phase = s.phase ∧ s.digestOk.latch = s.latch ∧ s.digestOk.cmdPort = s.cmdPort ∧
      s.digestOk.rspPort = s.rspPort ∧ s.digestOk.dreq = s.dreq ∧ s.digestOk.agenda = s.agenda ∧
      s.digestOk.fresh = s.fresh ∧ s.digestOk.unanswered = s.unanswered := by
  obtain h | ⟨_, _, _, _, h⟩ := s.digestOk_cases <;> rw [h] <;> exact ⟨rfl, rfl, rfl, rfl, rfl, rfl, rfl, rfl⟩

theorem digestFail_frame (s : State) :
    s.digestFail.phase = s.phase ∧ s.digestFail.latch = s.latch ∧ s.digestFail.cmdPort = s.cmdPort ∧
      s.digestFail.rspPort = s.rspPort ∧ s.digestFail.dreq = s.dreq ∧ s.digestFail.agenda = s.agenda ∧
      s.digestFail.fresh = s.fresh ∧ s.digestFail.unanswered = s.unanswered := by
  obtain h | ⟨_, _, _, _, h⟩ := s.digestFail_cases <;> rw [h] <;> exact ⟨rfl, rfl, rfl, rfl, rfl, rfl, rfl, rfl⟩

end Sys2Proof.Machine
end

