-- ==== Sys2Proof/Tests/Slice0.lean ====
section
/-!
SUPPORT. Tests with expected values from spec/95_test_vectors.md (its programs P1 to P5, its vectors and the source's
worked examples S1 to S4), and for each statement with hypotheses a witness that meets them.
-/
namespace Sys2Proof.Tests
open Sys2Proof.Machine

/-! ### Helpers -/

/-- The responses at the port after a step; none where it does not answer a next state. -/
def responses : Result → List Response
  | .next s => s.rspPort
  | .fault _ => []
  | .refused _ => []

/-- PHASE, STAT and the digest request after a step. -/
def channel : Result → Option (Phase × BitVec 2 × Option Str)
  | .next s => some (s.phase, s.stat, s.dreq)
  | .fault _ => none
  | .refused _ => none

/-- What the very next step answers for a word of 95_test_vectors.md section 7, from reset. -/
def run (nbits w : Nat) : List Response :=
  responses (step (State.reset.withFetchWord nbits w))

/-- `"1WFV385"` and `"AZERTYUIOP"`. -/
def plate : Str := [0x31, 0x57, 0x46, 0x56, 0x33, 0x38, 0x35]
def azerty : Str := [0x41, 0x5A, 0x45, 0x52, 0x54, 0x59, 0x55, 0x49, 0x4F, 0x50]

/-- The digest bytes of P1 step 2. -/
def digestP1 : Digest :=
  #v[0xC4, 0xBE, 0x8F, 0xA2, 0x7B, 0xE8, 0x6B, 0xA9, 0x48, 0xAD, 0x96, 0x9B, 0xD3, 0xD8, 0xAD, 0xD8, 0x34, 0xD4, 0xC5,
    0xA5]

/-- A core that waits for the digest of `"A"`, with this answer on the channel and these moves to come. -/
def waiting (a : Option DigestAnswer) (moves : List Move) : State :=
  { State.reset with phase := .waitDigest, latch := [0x41], dreq := some [0x41], dans := a, agenda := moves }

/-- The faulted core with a command at its port. -/
def faulted (moves : List Move) : State :=
  { State.reset with phase := .faulted, cmdPort := [encode .reserved5], agenda := moves }

/-- The five fields of S1. -/
def s1Fields : Wiegand26Result :=
  { hex := 0x1A98B4B, pay := 13944229, fc := 212, idn := 50597, fcid := 21250597 }

/-! ### Well-formedness -/

/-- An identifier operand with nine slots, and one with eleven, is refused; ten are accepted. -/
theorem test_wf_id :
    Instr.wf (.w26Enc ⟨true, 1, List.replicate 9 0x41⟩) = false ∧ Instr.wf (.w64Enc ⟨true, 1, List.replicate 11 0x41⟩) = false
      ∧ Instr.wf (.w64Enc ⟨true, 1, List.replicate 10 0x41⟩) = true := by decide

/-! ### Decoding (R60 to R62; the words of P1 to P3) -/

theorem test_decode_w26Enc :
    decodeTableWord 96 0x010731574656333835000000 = some (.w26Enc ⟨true, 7, plate ++ [0, 0, 0]⟩) := by decide

theorem test_decode_w64Enc : decodeTableWord 96 0x110A415A4552545955494F50 = some (.w64Enc ⟨true, 10, azerty⟩) := by decide

theorem test_decode_w26Dec : decodeTableWord 72 0x060000000001A98B4B = some (.w26Dec ⟨.value, 0x1A98B4B⟩) := by decide

theorem test_decode_w26Rdfc : decodeTableWord 72 0x090000000000000000 = some (.w26Rdfc ⟨.blank, 0⟩) := by decide

theorem test_decode_w26Rdid : decodeTableWord 72 0x0E0000000001A98B4B = some (.w26Rdid ⟨.value, 0x1A98B4B⟩) := by decide

theorem test_decode_w26Rdpay : decodeTableWord 72 0x120000000001A98B4B = some (.w26Rdpay ⟨.value, 0x1A98B4B⟩) := by decide

/-- `K_ABSENT`, and, with the two kind bits both set (R60, R64), `K_OVF`. -/
theorem test_decode_w64Dec :
    decodeTableWord 72 0x240000000000000000 = some (.w64Dec ⟨.absent, 0⟩) ∧
      decodeTableWord 72 0x2766B37ABB72BA2A29 = some (.w64Dec ⟨.ovf, 0x66B37ABB72BA2A29⟩) := by decide

/-- The nine opcodes of R62, each its four bits alone. -/
theorem test_decode_reserved :
    [0x5, 0x6, 0x7, 0xA, 0xB, 0xC, 0xD, 0xE, 0xF].map (decodeTableWord 4)
      = [some .reserved5, some .reserved6, some .reserved7, some .reservedA, some .reservedB, some .reservedC,
          some .reservedD, some .reservedE, some .reservedF] := by decide

/-- A word of a wrong length is rejected by name (log entry 2). -/
theorem test_decode_wrong_length :
    (decode ⟨71, 0⟩).toOption = none ∧ (decode ⟨3, 0⟩).toOption = none := by decide

/-! ### The sub-blocks (95_test_vectors.md sections 2 to 5) -/

/-- Rows `00 08 00`, `FF FF FF`, `AB CD EF` and `7F FF FF` of section 2, where the conventional split would differ. -/
theorem test_assemble :
    [0x000800#24, 0xFFFFFF#24, 0xABCDEF#24, 0x7FFFFF#24].map (fun p => assemble (pack26 p))
      = [0x2001001#26, 0x3FFFFFE#26, 0x1579BDE#26, 0x0FFFFFE#26] := by decide

/-- R123's examples. -/
theorem test_fcid :
    fcidOf 212 50597 = 21250597 ∧ fcidOf 0 42 = 42 ∧ fcidOf 1 0 = 100000 ∧ fcidOf 255 65535 = 25565535 := by decide

/-- R142's example: the groups of `"   1WFV385"`. -/
theorem test_alpha : (pad10 plate).map alpha = [0, 0, 0, 17, 48, 31, 47, 19, 24, 21] := by decide

/-- R161 (e): the reserved values 1, 15, 52, 62 give `?`, 16 gives `0` and 51 gives `Z`. -/
theorem test_rev : [1#6, 15#6, 52#6, 62#6, 16#6, 51#6].map rev = [0x3F, 0x3F, 0x3F, 0x3F, 0x30, 0x5A] := by decide

/-- Section 3, host-side text forms: `"01a98b4b"` and `hex_render(0x2, 7)`. -/
theorem test_hex_text :
    hexParse (some [0x30, 0x31, 0x61, 0x39, 0x38, 0x62, 0x34, 0x62]) = some ⟨.value, 0x1A98B4B⟩ ∧
      hexRender 0x2 7 = [0x30, 0x30, 0x30, 0x30, 0x30, 0x30, 0x32] := by decide

/-- R208: `" a-1 "` is trimmed, upper-cased and stripped to `"A1"`. -/
theorem test_normalise : normalise (some [0x20, 0x61, 0x2D, 0x31, 0x20]) = some [0x41, 0x31] := by decide

/-! ### One step each (95_test_vectors.md section 7) -/

/-- P1 step 1: accepted, the request sent, `STAT = 01`. -/
theorem test_exec_w26Enc :
    channel (step (State.reset.withFetchWord 96 0x010731574656333835000000)) = some (.waitDigest, 0b01, some plate) := by
  decide

/-- P1 step 2 (S1): the answer of the digest unit gives the five fields. -/
theorem test_exec_w26Enc_answer : responses (coreTurn (waiting (some (.ok digestP1)) [])) = [.okFrame s1Fields] := by decide

/-- P1 step 3. -/
theorem test_exec_w26Dec : run 72 0x060000000001A98B4B = [.okFrame s1Fields] := by decide

/-- P3 steps 3 and 4. -/
theorem test_exec_w26Dec_errors :
    run 72 0x060000000004000000 = [.malformed] ∧ run 72 0x050000000000000000 = [.absent] := by decide

/-- P1 step 4, P3 step 5. -/
theorem test_exec_w26Rdfc :
    run 72 0x0A0000000001A98B4B = [.okAcc 212] ∧ run 72 0x090000000000000000 = [.malformed] := by decide

/-- P1 step 5. -/
theorem test_exec_w26Rdid : run 72 0x0E0000000001A98B4B = [.okAcc 50597] := by decide

/-- P1 step 6. -/
theorem test_exec_w26Rdpay : run 72 0x120000000001A98B4B = [.okAcc 13944229] := by decide

/-- P2 step 1 (S2), P3 step 1. -/
theorem test_exec_w64Enc :
    run 96 0x110A415A4552545955494F50 = [.okCode64 0x66B37ABB72BA2A29] ∧ run 96 0x110B00000000000000000000 = [.tooLong] := by
  decide

/-- Section 4, row `"AB-12"`, not normalised. -/
theorem test_exec_w64Enc_raw :
    responses (exec (.w64Enc (IdOperand.ofText (some [0x41, 0x42, 0x2D, 0x31, 0x32]))) State.reset)
      = [.okCode64 0x600000001A6FF452] := by decide

/-- P2 step 5 (S3), and P3 step 6. -/
theorem test_exec_w64Dec :
    run 72 0x266FFFFFFFFFFFFFFF = [.okText (List.replicate 10 0x3F) (List.replicate 10 0x3F) 10] ∧
      run 72 0x240000000000000000 = [.absent] := by decide

/-- Section 5, row `0x601A00000000001A`: inner spaces stay. -/
theorem test_exec_w64Dec_inner :
    responses (exec (.w64Dec ⟨.value, 0x601A00000000001A⟩) State.reset)
      = [.okText ([0x20, 0x41] ++ List.replicate 7 0x20 ++ [0x41]) ([0x41] ++ List.replicate 7 0x20 ++ [0x41, 0x20]) 9] := by
  decide

/-- P4 step 2. -/
theorem test_exec_dfail :
    responses (coreTurn (waiting (some .fail) [])) = [.fatalDigest] ∧
      channel (coreTurn (waiting (some .fail) [])) = some (.faulted, 0b11, none) := by decide

/-- P5 step 2: a command presented in WAIT_DIGEST is held. -/
theorem test_held :
    channel (coreTurn { waiting none [] with cmdPort := [encode (.w64Dec ⟨.value, 0x3F⟩)] })
      = some (.waitDigest, 0b01, some [0x41]) := by decide

/-! ### Witnesses: states and operands that meet the hypotheses of each statement -/

theorem witness_EncodeThenDecodeGivesBack : Instr.wf (.w26Enc ⟨true, 255, List.replicate 10 0xFF⟩) = true := by decide

theorem witness_DecodeThenEncodeGivesBack :
    (decode (encode (.w64Dec ⟨.ovf, 0xFFFFFFFFFFFFFFFF⟩))).toOption = some (.w64Dec ⟨.ovf, 0xFFFFFFFFFFFFFFFF⟩) ∧
      Instr.isReserved (.w64Dec ⟨.ovf, 0xFFFFFFFFFFFFFFFF⟩) = false := by decide

/-- The six clauses: three bits; `0x8` in 93 bits; `0x9` in 70; `0xF` in 4; `0x8` in 92; `0x9` in 71. -/
theorem witness_DecodeIsTotalByOpcodeAndLength :
    (⟨3, 0⟩ : CmdWord).len < 4 ∧
    ((⟨93, 8 <<< 89⟩ : CmdWord).op ∈ [0x0#4, 0x8#4] ∧ (⟨70, 9 <<< 66⟩ : CmdWord).op ∈ [0x1#4, 0x2#4, 0x3#4, 0x4#4, 0x9#4]) ∧
    (⟨4, 0xF⟩ : CmdWord).op ∈ [0x5#4, 0x6#4, 0x7#4, 0xA#4, 0xB#4, 0xC#4, 0xD#4, 0xE#4, 0xF#4] ∧
    (⟨92, 8 <<< 88⟩ : CmdWord).op ∈ [0x0#4, 0x8#4] ∧ (⟨71, 9 <<< 67⟩ : CmdWord).op ∈ [0x1#4, 0x2#4, 0x3#4, 0x4#4, 0x9#4] := by
  decide

/-- The largest word of each opcode. -/
theorem witness_DecodeReadsFieldsAtTheirPositions :
    (BitVec.ofNat 93 (1 * 2 ^ 89 - 1)).toNat / 2 ^ 89 = 0 ∧ (BitVec.ofNat 93 (9 * 2 ^ 89 - 1)).toNat / 2 ^ 89 = 8 ∧
      [1, 2, 3, 4, 9].map (fun k => (BitVec.ofNat 70 ((k + 1) * 2 ^ 66 - 1)).toNat / 2 ^ 66) = [1, 2, 3, 4, 9] ∧
      (decode ⟨93, 0⟩).toOption = some (.w26Enc ⟨false, 0, List.replicate 10 0⟩) := by decide

/-- The shortest and the longest identifier. -/
theorem witness_W26EncSendsTheDigestRequest :
    ∀ n ∈ [1#8, 10#8], (IdOperand.mk true n azerty).present = true ∧ 1 ≤ n.toNat ∧ n.toNat ≤ 10 := by decide

theorem witness_W26EncAnswersFromTheDigest :
    (waiting (some (.ok digestP1)) []).phase = .waitDigest ∧ (waiting (some (.ok digestP1)) []).dans = some (.ok digestP1) := by
  decide

theorem witness_W26EncFaultsWhenDigestUnavailable :
    (waiting (some .fail) []).phase = .waitDigest ∧ (waiting (some .fail) []).dans = some .fail := by decide

theorem witness_DecodeOfEncodedFrameAgrees :
    (waiting (some (.ok (Vector.replicate 20 0xFF))) []).phase = .waitDigest ∧
      (waiting (some (.ok (Vector.replicate 20 0xFF))) []).dans = some (.ok (Vector.replicate 20 0xFF)) := by decide

theorem witness_W26EncCompletesInTwoCoreTurns :
    let id : IdOperand := ⟨true, 10, azerty⟩
    let s : State := { State.reset with agenda := [.present (encode (.w26Enc id)), .core, .digestOk, .core] }
    id.wf = true ∧ id.present = true ∧ 1 ≤ id.len.toNat ∧ id.len.toNat ≤ 10 ∧ s.phase = .idle ∧ s.cmdPort = [] ∧
      s.agenda = .present (encode (.w26Enc id)) :: .core :: .digestOk :: .core :: [] := by decide

/-- The largest value that fits and the smallest that does not. -/
theorem witness_W26DecAnswersTheFields :
    2 ^ 25 ≤ (0x3FFFFFF#64).toNat ∧ Nat.size (0x3FFFFFF#64).toNat ≤ 26 ∧ 26 < Nat.size (0x4000000#64).toNat ∧
      CodeOperand.absent.kind = .absent ∧ CodeOperand.blank.kind = .blank ∧ (CodeOperand.ovf 0).kind = .ovf := by
  refine ⟨by decide, Nat.size_le.2 (by decide), Nat.lt_size.2 (by decide), rfl, rfl, rfl⟩

theorem witness_FcidIsTheDecimalConcatenation : fcidOf 255 65535 = fcidOf 255 65535 := rfl

theorem witness_AccessorsAnswerTheirField :
    (CodeOperand.hex 0x3FFFFFF).kind = .value ∧ (CodeOperand.hex 0x3FFFFFF).val.toNat < 2 ^ 26 ∧
      2 ^ 26 ≤ (CodeOperand.hex 0x4000000).val.toNat ∧ (CodeOperand.ovf 0).kind ≠ .value ∧ CodeOperand.blank.kind ≠ .value := by
  decide

/-- `0x1A98B4B` and the same frame with both parity bits wrong. -/
theorem witness_ParityIsNotCheckedOnDecode :
    (0x1A98B4B#64).toNat < 2 ^ 26 ∧ (0x3A98B4A#64).toNat < 2 ^ 26 ∧
      (0x1A98B4B#64).toNat / 2 % 2 ^ 24 = (0x3A98B4A#64).toNat / 2 % 2 ^ 24 := by decide

theorem witness_PaddingIsOnTheLeft : ∀ t ∈ [[0x41], azerty], 1 ≤ t.length ∧ t.length ≤ 10 := by decide

theorem witness_PackedGroupsStandAtTheirBits : (List.replicate 10 63#6).length = 10 := by decide

/-- Each clause at its boundary: no characters, eleven, one and ten. -/
theorem witness_W64EncAnswersTheWord :
    (IdOperand.mk true 0 azerty).len = 0#8 ∧ (IdOperand.mk false 9 azerty).present = false ∧
      10 < (IdOperand.mk true 11 azerty).len.toNat ∧
      ∀ n ∈ [1#8, 10#8], (IdOperand.mk true n azerty).wf = true ∧ 1 ≤ n.toNat ∧ n.toNat ≤ 10 := by decide

/-- The raw texts of `0x0` (all spaces), `0x3F` (`a = b = 9`) and `0x6FFFFFFFFFFFFFFF` (`a = 0`, `b = 9`). -/
theorem witness_TrimRemovesTheOuterSpaces :
    (∀ c ∈ (unpack64 0).map rev, c = 0x20#8) ∧
    (((unpack64 0x3F).map rev)[9]? ≠ some 0x20#8 ∧ ∀ k < 9, ((unpack64 0x3F).map rev)[k]? = some 0x20#8) ∧
    ((unpack64 0x6FFFFFFFFFFFFFFF).map rev)[0]? ≠ some 0x20#8 ∧ ((unpack64 0x6FFFFFFFFFFFFFFF).map rev)[9]? ≠ some 0x20#8 := by
  decide

theorem witness_W64DecAlwaysAnswers :
    CodeOperand.absent.kind = .absent ∧ CodeOperand.blank.kind = .blank ∧ (CodeOperand.hex 0).kind = .value ∧
      (CodeOperand.ovf 0).kind = .ovf := by decide

/-- Headers `0000` and `1111`, as `K_VALUE` and `K_OVF`. -/
theorem witness_W64DecIgnoresTheHeader :
    Kind.value ∈ [Kind.value, Kind.ovf] ∧ Kind.ovf ∈ [Kind.value, Kind.ovf] ∧
      (0x06B37ABB72BA2A29#64).toNat % 2 ^ 60 = (0xF6B37ABB72BA2A29#64).toNat % 2 ^ 60 := by decide

theorem witness_W64RoundTrip :
    ∀ t ∈ [[0x20#8], [0x41, 0x20, 0x5A], azerty], 1 ≤ t.length ∧ t.length ≤ 10 ∧
      ∀ c ∈ t, c = 0x20#8 ∨ (0x30 ≤ c.toNat ∧ c.toNat ≤ 0x39) ∨ (0x41 ≤ c.toNat ∧ c.toNat ≤ 0x5A) := by decide

theorem witness_W64EncIsInjective :
    (1 ≤ azerty.length ∧ azerty.length ≤ 10) ∧
      (∀ c ∈ azerty ++ azerty, (0x30 ≤ c.toNat ∧ c.toNat ≤ 0x39) ∨ (0x41 ≤ c.toNat ∧ c.toNat ≤ 0x5A)) ∧
      exec (.w64Enc (IdOperand.ofText (some azerty))) State.reset = exec (.w64Enc (IdOperand.ofText (some azerty))) State.reset :=
  ⟨by decide, by decide, rfl⟩

theorem witness_EncodersTestAbsentThenLength :
    (IdOperand.mk false 11 azerty).present = false ∧ (IdOperand.mk true 0 azerty).len = 0#8 ∧
      (IdOperand.long 11).present = true ∧ 10 < (IdOperand.long 11).len.toNat ∧ 10 < (IdOperand.long 255).len.toNat := by decide

/-- One command for each of the four statuses. -/
theorem witness_StatusesByOperation :
    (∃ t, exec (.w64Dec CodeOperand.absent) State.reset = .next t ∧ t.rspPort = State.reset.rspPort ++ [.absent]) ∧
    (∃ t, exec (.w26Enc (IdOperand.long 11)) State.reset = .next t ∧ t.rspPort = State.reset.rspPort ++ [.tooLong]) ∧
    (∃ t, exec (.w26Dec (CodeOperand.hex 0x4000000)) State.reset = .next t ∧ t.rspPort = State.reset.rspPort ++ [.malformed]) ∧
    (∃ t, exec (.w26Rdfc (CodeOperand.hex 0)) State.reset = .next t ∧ t.rspPort = State.reset.rspPort ++ [.okAcc 0]) :=
  ⟨⟨_, rfl, by decide⟩, ⟨_, rfl, by decide⟩, ⟨_, rfl, by decide⟩, ⟨_, rfl, by decide⟩⟩

theorem witness_ReservedOpcodesAreRefused :
    Instr.reserved5.isReserved = true ∧ Instr.reservedF.isReserved = true ∧
      ({ State.reset with cmdPort := [⟨93, 0xF <<< 89⟩] } : State).cmdPort.head? = some ⟨93, 0xF <<< 89⟩ ∧
      (⟨93, 0xF <<< 89⟩ : CmdWord).op = 0xF#4 ∧ (⟨4, 0x5⟩ : CmdWord).op = 0x5#4 := by decide

theorem witness_ReservedCommandHasNoStep :
    Instr.reserved5.isReserved = true ∧ Instr.reservedF.isReserved = true ∧
      (decode ⟨4, 0xF⟩).toOption = some .reservedF ∧ State.reset.phase = .idle ∧
      ({ State.reset with cmdPort := [⟨4, 0xF⟩] } : State).cmdPort.head? = some ⟨4, 0xF⟩ := by decide

theorem witness_ResponseIsAFunctionOfTheCommand :
    Instr.isReserved (.w26Enc (IdOperand.ofText (some plate))) = false ∧ Instr.isReserved (.w64Dec CodeOperand.blank) = false ∧
      (waiting (some (.ok digestP1)) []).phase = .waitDigest ∧ (waiting (some (.ok digestP1)) []).dans = some (.ok digestP1) ∧
      (waiting (some .fail) []).dans = some .fail := by
  decide

/-- A command that answers, one that waits, and the second halves of a `W26.ENC`. -/
theorem witness_CommandFrame :
    State.reset.phase = .idle ∧ (∃ t, exec (.w26Enc (IdOperand.ofText (some plate))) State.reset = .next t) ∧
      (∃ t, exec (.w26Dec CodeOperand.blank) State.reset = .next t) ∧
      (∃ t, coreTurn (waiting (some (.ok digestP1)) []) = .next t) ∧ ∃ t, coreTurn (waiting (some .fail) []) = .next t :=
  ⟨rfl, ⟨_, rfl⟩, ⟨_, rfl⟩, ⟨_, rfl⟩, _, rfl⟩

theorem witness_NextCommandIsUnaffected :
    State.reset.phase = .idle ∧
      (∃ t, exec (.w26Enc (IdOperand.long 11)) State.reset = .next t ∧ t.phase = .idle) ∧
      ∃ u, exec (.w26Enc (IdOperand.ofText (some plate))) State.reset = .next u :=
  ⟨rfl, ⟨_, rfl, rfl⟩, _, rfl⟩

/-- Two identifiers that differ only in parts without meaning, in each of the three ways, and the kinds. -/
theorem witness_MeaninglessOperandPartsAreIgnored :
    ((IdOperand.mk false 0 azerty).present = false ∧ (IdOperand.mk false 255 []).present = false) ∧
    (10 < (11#8).toNat ∧ 10 < (255#8).toNat) ∧
    (azerty.take (1#8).toNat = ([0x41] ++ plate).take (1#8).toNat) ∧ Kind.ovf ≠ .value ∧ Kind.absent ≠ .value := by decide

/-- An empty agenda, an agenda that gives the core the turn, and a placed word. -/
theorem witness_StepRunsTheDecodedCommand :
    (decode (encode (.w26Dec CodeOperand.blank))).toOption = some (.w26Dec CodeOperand.blank) ∧
      State.reset.agenda = [] ∧ ({ State.reset with agenda := [.core] } : State).agenda.head? = some .core ∧
      ({ State.reset with cmdPort := [encode (.w26Dec CodeOperand.blank)] } : State).cmdPort
        = encode (.w26Dec CodeOperand.blank) :: [] ∧
      decodeTableWord 72 0x050000000000000000 = some (.w26Dec ⟨.blank, 0⟩) := by decide

theorem witness_CommandIsHeldWhileBusy :
    (waiting none []).phase = .waitDigest ∧ (waiting none []).dans = none ∧ (waiting none []).agenda = [] ∧
      (faulted [.core]).phase = .faulted ∧ (faulted [.core]).agenda.head? = some .core := by decide

/-- The four changes of PHASE. -/
theorem witness_PhaseChangesOnlyAsListed :
    (∃ t, step (faulted [.assertReset]) = .next t ∧ t.phase ≠ (faulted [.assertReset]).phase) ∧
    (∃ t, step (State.reset.withFetchWord 96 0x010731574656333835000000) = .next t ∧ t.phase = .waitDigest) ∧
    (∃ t, step (waiting (some (.ok digestP1)) []) = .next t ∧ t.phase = .idle) ∧
    ∃ t, step (waiting (some .fail) [.core]) = .next t ∧ t.phase = .faulted :=
  ⟨⟨_, rfl, by decide⟩, ⟨_, rfl, by decide⟩, ⟨_, rfl, by decide⟩, _, rfl, by decide⟩

theorem witness_FaultedUntilReset :
    (faulted [.readResponse]).phase = .faulted ∧ (faulted [.readResponse]).agenda.head? ≠ some .assertReset ∧
      (∃ t, step (faulted [.readResponse]) = .next t) ∧ ∃ t, step (faulted []) = .next t :=
  ⟨rfl, by decide, ⟨_, rfl⟩, _, rfl⟩

/-- A presented word, a call by text, an accepted command, a reset. -/
theorem witness_CommandsAreTakenInOrder :
    (∃ t, step { State.reset with agenda := [.present ⟨4, 0x5⟩] } = .next t) ∧
    (∃ t, step { State.reset with agenda := [.call .decode64 none] } = .next t) ∧
    (∃ t, step { State.reset with cmdPort := [encode (.w26Dec CodeOperand.blank)] } = .next t) ∧
    ∃ t, step (faulted [.assertReset]) = .next t :=
  ⟨⟨_, rfl⟩, ⟨_, rfl⟩, ⟨_, rfl⟩, _, rfl⟩

theorem witness_ResponsesComeInOrder :
    (∃ t, step { State.reset with cmdPort := [encode (.w26Dec CodeOperand.blank)] } = .next t ∧ t.rspPort = [.absent]) ∧
    (∃ t, step { State.reset with rspPort := [.absent, .tooLong], agenda := [.readResponse] } = .next t ∧
      t.rspPort = [.tooLong]) :=
  ⟨⟨_, rfl, by decide⟩, _, rfl, by decide⟩

/-- The waiting core meets the invariant. -/
theorem waiting_inv (moves : List Move) : (waiting none moves).Inv where
  waiting _ := ⟨rfl, by simp [Tests.waiting]⟩
  quiet h := absurd rfl h
  contract _ h := nomatch h
  responses _ h := nomatch h

theorem witness_DigestUnitAnswersTheRequest :
    (waiting none [.digestOk]).Inv ∧ (waiting none [.digestOk]).phase = .waitDigest ∧ (waiting none [.digestOk]).dans = none ∧
      (waiting none [.digestOk]).agenda = .digestOk :: [] ∧ (waiting none [.digestFail]).agenda = .digestFail :: [] ∧
      (faulted [.digestOk]).phase ≠ .waitDigest ∧ (faulted [.digestOk]).agenda = .digestOk :: [] ∧
      (waiting (some .fail) [.digestOk]).dans ≠ none ∧ (waiting (some .fail) [.digestOk]).agenda = .digestOk :: [] ∧
      (faulted [.digestFail]).dreq = none ∧ (faulted [.digestFail]).agenda = .digestFail :: [] :=
  ⟨waiting_inv _, by decide⟩

theorem witness_HungRunStaysHung :
    (waiting none [.core, .readResponse]).hung ∧ ∃ t, step (waiting none [.core, .readResponse]) = .next t :=
  ⟨by decide, _, rfl⟩

/-- A presented command, a call, a turn of the core, a reset, and a read: each a step to a next state. -/
theorem witness_OutstandingCountsTheUnansweredCommands :
    (∃ t, step { State.reset with agenda := [.present ⟨4, 0x5⟩] } = .next t ∧ t.outstanding = 1) ∧
    (∃ t, step { State.reset with agenda := [.call .decode64 none] } = .next t) ∧
    (∃ t, step (State.reset.withFetchWord 72 0x050000000000000000) = .next t) ∧
    (∃ t, step (waiting none [.assertReset]) = .next t ∧ t.outstanding = 1) ∧
    (∃ t, step (waiting none [.digestFail]) = .next t) ∧ ∃ t, step (waiting none [.readResponse]) = .next t :=
  ⟨⟨_, rfl, by decide⟩, ⟨_, rfl⟩, ⟨_, rfl⟩, ⟨_, rfl, by decide⟩, ⟨_, rfl⟩, _, rfl⟩

/-- A reset in WAIT_DIGEST, one with a held command, one with an unread response; then one more step. -/
theorem witness_AbandonedCommandNeverEndsWell :
    ((waiting none [.assertReset]).phase = .waitDigest ∧ (faulted [.assertReset]).cmdPort ≠ [] ∧
      ({ State.reset with rspPort := [.absent] } : State).rspPort ≠ []) ∧
    ∃ t, step (waiting none [.assertReset]) = .next t ∧ ∃ u, Host.Core.run Sys2Proof.core 1 t = .next u :=
  ⟨by decide, _, rfl, _, rfl⟩

/-- The end of a run (R206): well after P3 step 4 and after reset; not with a command held, not while the digest is
waited for, not when FAULTED, and not after the reset of P4 step 4, which drops a presented command. -/
theorem test_endedWell :
    State.reset.endedWell ∧ (∃ t, step (State.reset.withFetchWord 72 0x050000000000000000) = .next t ∧ t.endedWell) ∧
      ¬(State.reset.withFetchWord 72 0x050000000000000000).endedWell ∧ ¬(waiting none []).endedWell ∧
      ¬(faulted []).endedWell ∧ ∃ t, step (faulted [.assertReset]) = .next t ∧ t.phase = .idle ∧ ¬t.endedWell :=
  ⟨by decide, ⟨_, rfl, by decide⟩, by decide, by decide, by decide, _, rfl, rfl, by decide⟩

theorem witness_ResetMoveClearsEverything : (waiting none [.assertReset]).agenda = .assertReset :: [] := by decide

/-- A step from a waiting state that meets the invariant: the digest unit answers. -/
theorem witness_StepKeepsTheInvariant :
    (waiting none [.digestFail]).Inv ∧ ∃ t, step (waiting none [.digestFail]) = .next t ∧ t.dans = some .fail :=
  ⟨waiting_inv _, _, rfl, by decide⟩

/-- One digit at its largest value, and the first value that overflows 64 bits. -/
theorem witness_HexParseReadsRenderedText : (15 < 16 ^ 1 ∧ 1 ≤ 1) ∧ 2 ^ 64 < 16 ^ 17 ∧ ¬2 ^ 64 < 2 ^ 64 := by decide

/-- `"G"`, and a call with it. -/
theorem witness_HexParseOfOtherText :
    (0x47#8 ∈ [0x47#8] ∧ 0x21 ≤ (0x47#8).toNat ∧ (0x47#8).toNat ≤ 0x7E ∧ ¬(0x41 ≤ (0x47#8).toNat ∧ (0x47#8).toNat ≤ 0x46)) ∧
      ({ State.reset with agenda := [.call .decode64 (some [0x47])] } : State).agenda = .call .decode64 (some [0x47]) :: [] := by
  decide

theorem witness_NormaliserContract :
    normalise (some [0x61]) = some [0x41] ∧ plate ≠ [] ∧
      ∀ c ∈ plate, (0x30 ≤ c.toNat ∧ c.toNat ≤ 0x39) ∨ (0x41 ≤ c.toNat ∧ c.toNat ≤ 0x5A) := by decide

theorem witness_TextRoundTrip64 : normalise (some azerty) = some azerty ∧ azerty.length ≤ 10 := by decide

end Sys2Proof.Tests
end

section
/-!
PROOFS of the family 10_state.md: what STAT shows in each phase, the core's turn on an answer of the digest unit, and
that a response depends on the command and on that answer alone.
-/
namespace Sys2Proof.Machine

/-! STAT in each of the three phases (R29). -/

theorem State.stat_of_idle {s : State} (h : s.phase = .idle) : s.stat = 0b00#2 := by
  rw [State.stat, State.busy, State.fault, h]; rfl

theorem State.stat_of_waitDigest {s : State} (h : s.phase = .waitDigest) : s.stat = 0b01#2 := by
  rw [State.stat, State.busy, State.fault, h]; rfl

theorem State.stat_of_faulted {s : State} (h : s.phase = .faulted) : s.stat = 0b11#2 := by
  rw [State.stat, State.busy, State.fault, h]; rfl

/-- Settles O39, from STAT's value in each of the three phases. -/
theorem statShowsThePhase : Obligations.StatShowsThePhase := by
  refine ⟨fun s => ?_, State.stat_of_idle rfl⟩
  cases hp : s.phase with
  | idle => rw [State.stat_of_idle hp]; decide
  | waitDigest => rw [State.stat_of_waitDigest hp]; decide
  | faulted => rw [State.stat_of_faulted hp]; decide

/-! The core's turn when an answer of the digest unit stands on the channel (R100 steps 3 and 4). -/

theorem coreTurn_of_digest {s : State} {d : Digest} (hp : s.phase = .waitDigest) (ha : s.dans = some (.ok d)) :
    coreTurn s = completeW26Enc d s := by
  simp only [coreTurn, hp, ha]

theorem coreTurn_of_unavailable {s : State} (hp : s.phase = .waitDigest) (ha : s.dans = some .fail) :
    coreTurn s = failW26Enc s := by
  simp only [coreTurn, hp, ha]

/-- A primitive of R11 appends one and the same response in every state, or sends one and the same request. -/
theorem IsPrimitive.response_or_request {f : State → Result} (hf : IsPrimitive f) :
    (∃ r : Response, ∀ s : State, ∃ t : State,
      f s = .next t ∧ t.rspPort = s.rspPort ++ [r] ∧ t.dreq = s.dreq) ∨
    (∃ q : Str, ∀ s : State, ∃ t : State,
      f s = .next t ∧ t.rspPort = s.rspPort ∧ t.dreq = some q ∧ t.phase = .waitDigest) := by
  obtain ⟨r, hr⟩ | hr | ⟨e, hr⟩ | ⟨q, hr⟩ := hf
  · exact .inl ⟨r, fun s => ⟨_, (hr s).trans (ok_eq r s), rfl, rfl⟩⟩
  · exact .inl ⟨.absent, fun s => ⟨_, (hr s).trans (absent_eq s), rfl, rfl⟩⟩
  · exact .inl ⟨e.response, fun s => ⟨_, (hr s).trans (raise_eq e s), rfl, rfl⟩⟩
  · exact .inr ⟨q, fun s => ⟨_, (hr s).trans (awaitDigest_eq q s), rfl, rfl, rfl⟩⟩

/-- The response of the waiting `W26.ENC` is chosen by the digest unit's answer, whatever the state. -/
theorem coreTurn_response_of_answer (a : DigestAnswer) :
    ∃ r : Response, ∀ s : State, s.phase = .waitDigest → s.dans = some a →
      ∃ t : State, coreTurn s = .next t ∧ t.rspPort = s.rspPort ++ [r] := by
  cases a with
  | ok d => exact ⟨_, fun s hp ha => ⟨_, (coreTurn_of_digest hp ha).trans (completeW26Enc_eq d s), rfl⟩⟩
  | fail => exact ⟨_, fun s hp ha => ⟨_, (coreTurn_of_unavailable hp ha).trans (failW26Enc_eq s), rfl⟩⟩

/-- Settles O33: each operation is one primitive in every state, and the second half of `W26.ENC` reads the answer
alone. -/
theorem responseIsAFunctionOfTheCommand : Obligations.ResponseIsAFunctionOfTheCommand :=
  ⟨fun i hi => (exec_isPrimitive i hi).response_or_request, coreTurn_response_of_answer⟩

end Sys2Proof.Machine
end

section
/-!
PROOFS of the family 30_encoding.md: the positions of the fields of a command word and the opcode map (R60, R61), the
table ALPHA (R69), and the refusal of the reserved opcodes (R62).
-/
namespace Sys2Proof

/-! What the accessors of a command word read, as numbers (R60). -/

theorem CmdWord.op_toNat (w : CmdWord) : w.op.toNat = w.bits.toNat / 2 ^ (w.len - 4) % 16 := by
  rw [CmdWord.op, extractLsb'_eq_ofNat, BitVec.toNat_ofNat]

theorem CmdWord.op_of_bits {w : CmdWord} {op : BitVec 4} (h : w.bits.toNat / 2 ^ (w.len - 4) = op.toNat) :
    w.op = op :=
  BitVec.eq_of_toNat_eq (by rw [CmdWord.op_toNat, h, Nat.mod_eq_of_lt op.isLt])

theorem Kind.ofBits_ofNat (n : Nat) :
    Kind.ofBits (BitVec.ofNat 2 n) = [Kind.absent, .blank, .value, .ovf].getD (n % 4) .absent := by
  have table : ∀ b : BitVec 2, Kind.ofBits b = [Kind.absent, .blank, .value, .ovf].getD b.toNat .absent := by decide
  rw [table, BitVec.toNat_ofNat]

/-- The table of format I (R60). -/
theorem decodeId_eq (v : BitVec 93) :
    decodeId v =
      { present := v.toNat / 2 ^ 88 % 2 == 1
        len := BitVec.ofNat 8 (v.toNat / 2 ^ 80)
        ch := (List.range 10).map fun i => BitVec.ofNat 8 (v.toNat / 2 ^ (72 - 8 * i)) } := by
  have present : v.getLsbD 88 = (v.toNat / 2 ^ 88 % 2 == 1) := Nat.testBit_eq_decide_div_mod_eq
  rw [decodeId, present]
  simp only [extractLsb'_eq_ofNat]
  rfl

/-- The table of format C (R60). -/
theorem decodeCode_eq (v : BitVec 70) :
    decodeCode v =
      { kind := [Kind.absent, Kind.blank, Kind.value, Kind.ovf].getD (v.toNat / 2 ^ 64 % 4) .absent
        val := BitVec.ofNat 64 v.toNat } := by
  rw [decodeCode, extractLsb'_eq_ofNat, extractLsb'_eq_ofNat, Kind.ofBits_ofNat, Nat.pow_zero, Nat.div_one]

/-! A word whose opcode names a format, at that format's length. -/

theorem decode_of_formatI (op : BitVec 4) {mk : IdOperand → Instr} {v : BitVec 93}
    (hmap : ∀ w, decodeOp w (op.getLsbD 3) (op.extractLsb' 0 3) = formatI w mk) (h : v.toNat / 2 ^ 89 = op.toNat) :
    decode ⟨93, v⟩ = .ok (mk (decodeId v)) := by
  rw [decode_of_op _ op (CmdWord.op_of_bits h) (by simp), hmap, formatI, if_pos rfl, BitVec.setWidth_eq]

theorem decode_of_formatC (op : BitVec 4) {mk : CodeOperand → Instr} {v : BitVec 70}
    (hmap : ∀ w, decodeOp w (op.getLsbD 3) (op.extractLsb' 0 3) = formatC w mk) (h : v.toNat / 2 ^ 66 = op.toNat) :
    decode ⟨70, v⟩ = .ok (mk (decodeCode v)) := by
  rw [decode_of_op _ op (CmdWord.op_of_bits h) (by simp), hmap, formatC, if_pos rfl, BitVec.setWidth_eq]

/-! What a decoded word was: its opcode is the instruction's, its length that of the format (R61, R78). -/

theorem formatI_eq_ok {w : CmdWord} {mk : IdOperand → Instr} {i : Instr} (h : formatI w mk = .ok i) :
    w.len = 93 ∧ i = mk (decodeId (w.bits.setWidth 93)) := by
  unfold formatI at h
  split at h
  next hl => cases h; exact ⟨hl, rfl⟩
  next => cases h

theorem formatC_eq_ok {w : CmdWord} {mk : CodeOperand → Instr} {i : Instr} (h : formatC w mk = .ok i) :
    w.len = 70 ∧ i = mk (decodeCode (w.bits.setWidth 70)) := by
  unfold formatC at h
  split at h
  next hl => cases h; exact ⟨hl, rfl⟩
  next => cases h

/-- `op` is the format family followed by the function (R60). -/
theorem family_append_fn (op : BitVec 4) : BitVec.ofBool (op.getLsbD 3) ++ op.extractLsb' 0 3 = op := by
  revert op; decide

theorem decodeOp_eq_ok {w : CmdWord} {family : Bool} {fn : BitVec 3} {i : Instr} (h : decodeOp w family fn = .ok i) :
    i.opcode = BitVec.ofBool family ++ fn ∧ (i.isReserved = false → w.len = Laws.EncodedForm.length i) := by
  unfold decodeOp at h
  split at h
  case h_1 | h_9 => obtain ⟨hl, rfl⟩ := formatI_eq_ok h; exact ⟨rfl, fun _ => hl⟩
  case h_2 | h_3 | h_4 | h_5 | h_10 => obtain ⟨hl, rfl⟩ := formatC_eq_ok h; exact ⟨rfl, fun _ => hl⟩
  all_goals cases h; exact ⟨rfl, nofun⟩

theorem decode_eq_ok {w : CmdWord} {i : Instr} (h : decode w = .ok i) :
    i.opcode = w.op ∧ (i.isReserved = false → w.len = Laws.EncodedForm.length i) := by
  unfold decode at h
  split at h
  next => cases h
  next =>
    obtain ⟨hop, hlen⟩ := decodeOp_eq_ok h
    exact ⟨hop.trans (family_append_fn w.op), hlen⟩

/-! The seven operations by their opcode and format (R60, R61). -/

theorem Instr.eight_le_opcode_iff (i : Instr) (h : i.isReserved = false) :
    8 ≤ i.opcode.toNat ↔ (∃ id, i = .w64Enc id) ∨ ∃ code, i = .w64Dec code := by
  cases i <;> simp_all [Instr.opcode, Instr.isReserved]

theorem Instr.length_of_encoder {i : Instr} (h : ∃ id, i = .w26Enc id ∨ i = .w64Enc id) :
    Laws.EncodedForm.length i = 93 := by
  obtain ⟨id, rfl | rfl⟩ := h <;> rfl

theorem Instr.length_of_not_encoder {i : Instr} (hr : i.isReserved = false)
    (h : ¬∃ id, i = .w26Enc id ∨ i = .w64Enc id) : Laws.EncodedForm.length i = 70 := by
  cases i with
  | w26Enc id => exact absurd ⟨id, .inl rfl⟩ h
  | w64Enc id => exact absurd ⟨id, .inr rfl⟩ h
  | w26Dec | w26Rdfc | w26Rdid | w26Rdpay | w64Dec => rfl
  | reserved5 | reserved6 | reserved7 | reservedA | reservedB | reservedC | reservedD | reservedE | reservedF =>
    cases hr

/-- Settles O4: the fields by the tables of the two formats, the operation by the opcode map, and the last clause by
what a decoded word was. -/
theorem decodeReadsFieldsAtTheirPositions : Obligations.DecodeReadsFieldsAtTheirPositions := by
  refine ⟨fun v => ?_, fun v => ?_, fun w i h hr => ?_⟩
  · rw [← decodeId_eq]
    exact ⟨decode_of_formatI 0x0#4 fun _ => rfl, decode_of_formatI 0x8#4 fun _ => rfl⟩
  · rw [← decodeCode_eq]
    exact ⟨decode_of_formatC 0x1#4 fun _ => rfl, decode_of_formatC 0x2#4 fun _ => rfl,
      decode_of_formatC 0x3#4 fun _ => rfl, decode_of_formatC 0x4#4 fun _ => rfl, decode_of_formatC 0x9#4 fun _ => rfl⟩
  · obtain ⟨hop, hlen⟩ := decode_eq_ok h
    exact ⟨by rw [hop, CmdWord.op_toNat], i.eight_le_opcode_iff hr,
      fun he => (hlen hr).trans (Instr.length_of_encoder he),
      fun he => (hlen hr).trans (Instr.length_of_not_encoder hr he)⟩

end Sys2Proof

namespace Sys2Proof.Machine

/-! ALPHA on each class of character codes (R69). -/

theorem alpha_digit {k : Nat} (h : k < 10) : alpha (BitVec.ofNat 8 (0x30 + k)) = BitVec.ofNat 6 (16 + k) := by
  decide +revert

theorem alpha_letter {k : Nat} (h : k < 26) : alpha (BitVec.ofNat 8 (0x41 + k)) = BitVec.ofNat 6 (26 + k) := by
  decide +revert

theorem alpha_other {c : Byte} (hs : c.toNat ≠ 0x20) (hd : ¬(0x30 ≤ c.toNat ∧ c.toNat ≤ 0x39))
    (hl : ¬(0x41 ≤ c.toNat ∧ c.toNat ≤ 0x5A)) : alpha c = 63#6 := by
  rw [alpha, if_neg (fun h => hs (by rw [h]; rfl)), if_neg hd, if_neg hl]

/-- A run of codes that holds no space, no digit and no capital letter. -/
theorem map_alpha_other (a n : Nat) (hle : a + n ≤ 256) (hs : a + n ≤ 0x20 ∨ 0x20 < a)
    (hd : a + n ≤ 0x30 ∨ 0x39 < a) (hl : a + n ≤ 0x41 ∨ 0x5A < a) :
    (List.range n).map (fun k => alpha (BitVec.ofNat 8 (a + k))) = List.replicate n 63#6 := by
  rw [List.eq_replicate_iff]
  refine ⟨by simp, ?_⟩
  simp only [List.mem_map, List.mem_range]
  rintro _ ⟨k, hk, rfl⟩
  have hc : (BitVec.ofNat 8 (a + k)).toNat = a + k := by
    rw [BitVec.toNat_ofNat, Nat.mod_eq_of_lt (by omega)]
  exact alpha_other (by omega) (by omega) (by omega)

/-- Settles O19: the codes fall into seven runs, each inside one class. -/
theorem alphaTable : Obligations.AlphaTable := by
  have controls : (List.range 0x20).map (fun c => alpha (BitVec.ofNat 8 c)) = List.replicate 0x20 63#6 := by
    simpa only [Nat.zero_add] using map_alpha_other 0 0x20 (by decide) (by decide) (by decide) (by decide)
  have digits : (List.range 10).map (fun k => alpha (BitVec.ofNat 8 (0x30 + k)))
      = (List.range 10).map fun k => BitVec.ofNat 6 (16 + k) :=
    List.map_congr_left fun _ hk => alpha_digit (List.mem_range.mp hk)
  have letters : (List.range 26).map (fun k => alpha (BitVec.ofNat 8 (0x41 + k)))
      = (List.range 26).map fun k => BitVec.ofNat 6 (26 + k) :=
    List.map_congr_left fun _ hk => alpha_letter (List.mem_range.mp hk)
  rw [Obligations.AlphaTable, show 256 = 32 + 1 + 15 + 10 + 7 + 26 + 165 from rfl]
  simp only [List.range_add, List.map_append, List.map_map, Function.comp_def]
  simp only [Nat.reduceAdd]
  rw [controls, digits, letters, map_alpha_other 0x21 15, map_alpha_other 0x3A 7, map_alpha_other 0x5B 165]
  · rfl
  all_goals decide

/-! The reserved opcodes (R62). -/

theorem isReserved_iff_opcode (i : Instr) :
    i.isReserved = true ↔ i.opcode ∈ [0x5#4, 0x6#4, 0x7#4, 0xA#4, 0xB#4, 0xC#4, 0xD#4, 0xE#4, 0xF#4] := by
  cases i <;> simp [Instr.isReserved, Instr.opcode]

theorem exec_eq_refused_of_isReserved (i : Instr) (s : State) (h : i.isReserved = true) :
    exec i s = .refused (.reservedOpcode i.opcode) := by
  cases i with
  | w26Enc | w26Dec | w26Rdfc | w26Rdid | w26Rdpay | w64Enc | w64Dec => cases h
  | reserved5 | reserved6 | reserved7 | reservedA | reservedB | reservedC | reservedD | reservedE | reservedF => rfl

/-- The turn of the idle core with a command at the port: it takes the word off the port and runs the command (R204). -/
theorem coreTurn_of_command {s : State} {w : CmdWord} {i : Instr} (hp : s.phase = .idle)
    (hc : s.cmdPort.head? = some w) (hd : decode w = .ok i) :
    coreTurn s = exec i { s with cmdPort := s.cmdPort.tail } := by
  obtain ⟨rest, hcons⟩ := List.head?_eq_some_iff.mp hc
  simp only [coreTurn, hp, hcons, accept, hd, List.tail_cons]

/-- Settles O54: the opcodes and the refusal constructor by constructor, and the turn of the idle core from the
refusal by `exec`. -/
theorem reservedCommandHasNoStep : Obligations.ReservedCommandHasNoStep :=
  ⟨isReserved_iff_opcode, exec_eq_refused_of_isReserved, fun i _ _ hi hd hp hc =>
    (coreTurn_of_command hp hc hd).trans (exec_eq_refused_of_isReserved i _ hi)⟩

end Sys2Proof.Machine
end

section
/-!
PROOFS of the family 40_w26_encode.md: the payload and the packer (R101, R102), the two parity bits as counts of ones
(R103, R104), and the assembled frame as parity bit, payload, parity bit (R105).
-/
namespace Sys2Proof

/-- A concatenation as a number. -/
theorem toNat_append_eq_add {n m : Nat} (a : BitVec n) (b : BitVec m) :
    (a ++ b).toNat = a.toNat * 2 ^ m + b.toNat := by
  rw [BitVec.toNat_append, ← Nat.shiftLeft_add_eq_or_of_lt b.isLt, Nat.shiftLeft_eq]

end Sys2Proof

namespace Sys2Proof.Machine

/-! INJ24 and PACK26 (R101, R102). -/

theorem inj24_toNat (d : Digest) : (inj24 d).toNat = d[17].toNat * 65536 + d[18].toNat * 256 + d[19].toNat := by
  rw [inj24, toNat_append_eq_add, toNat_append_eq_add]
  omega

theorem pack26_toNat (p : Payload) : (pack26 p).toNat = 2 * p.toNat := by
  rw [pack26, BitVec.toNat_shiftLeft, BitVec.toNat_setWidth, Nat.shiftLeft_eq]
  omega

theorem pack26_getLsbD_zero (p : Payload) : (pack26 p).getLsbD 0 = false := by
  simp [pack26]

/-- Frame bit `k + 1` holds payload bit `k`; frame bit 25, where the payload has no bit, holds 0. -/
theorem pack26_getLsbD_succ (p : Payload) (k : Nat) : (pack26 p).getLsbD (k + 1) = p.getLsbD k := by
  by_cases h : k < 25
  · simp [pack26, show k + 1 < 26 by omega]
  · rw [BitVec.getLsbD_of_ge _ _ (by omega), BitVec.getLsbD_of_ge _ _ (by omega)]

/-- Settles O6: the digest bytes as the digits of a concatenation, and the packed frame bit by bit. -/
theorem payloadIsTheLastThreeBytesShifted : Obligations.PayloadIsTheLastThreeBytesShifted := by
  refine ⟨inj24_toNat, fun p => ⟨pack26_toNat p, ?_, pack26_getLsbD_zero p⟩⟩
  rw [pack26_getLsbD_succ, BitVec.getLsbD_of_ge p 24 le_rfl]

/-! The parity bits as counts of ones (R103, R104). -/

theorem popcount_extractLsb' {n : Nat} (v : BitVec n) (s l : Nat) :
    popcount (v.extractLsb' s l) = (List.range l).countP fun k => v.getLsbD (s + k) := by
  rw [popcount]
  refine List.countP_congr fun k hk => ?_
  rw [BitVec.getLsbD_extractLsb', decide_eq_true (List.mem_range.mp hk), Bool.true_and]

theorem evenPar_toNat (w : Frame) :
    (evenPar w).toNat = ((List.range 13).countP fun k => w.getLsbD (12 + k)) % 2 := by
  rw [evenPar, popcount_extractLsb', BitVec.toNat_ofNat]
  omega

theorem oddPar_toNat (w : Frame) :
    (oddPar w).toNat = 1 - ((List.range 12).countP fun k => w.getLsbD k) % 2 := by
  rw [oddPar, popcount_extractLsb', BitVec.toNat_ofNat]
  simp only [Nat.zero_add]
  omega

/-- The top frame bit is outside the bits the odd parity counts. -/
theorem oddPar_or_top (w : Frame) (b : BitVec 1) : oddPar (w ||| b.setWidth 26 <<< 25) = oddPar w := by
  have outside : (b.setWidth 26 <<< 25).extractLsb' 0 12 = 0#12 := by revert b; decide
  rw [oddPar, BitVec.extractLsb'_or, outside, BitVec.or_zero, oddPar]

/-- The lowest frame bit is outside the bits the even parity counts. -/
theorem evenPar_or_bottom (w : Frame) (b : BitVec 1) : evenPar (w ||| b.setWidth 26) = evenPar w := by
  have outside : (b.setWidth 26).extractLsb' 12 13 = 0#13 := by revert b; decide
  rw [evenPar, BitVec.extractLsb'_or, outside, BitVec.or_zero, evenPar]

theorem evenPar_pack26_toNat (p : Payload) :
    (evenPar (pack26 p)).toNat = ((List.range 13).countP fun k => p.getLsbD (11 + k)) % 2 := by
  have shifted (k : Nat) : (pack26 p).getLsbD (12 + k) = p.getLsbD (11 + k) := by
    rw [show 12 + k = (11 + k) + 1 by omega, pack26_getLsbD_succ]
  simp only [evenPar_toNat, shifted]

theorem oddPar_pack26_toNat (p : Payload) :
    (oddPar (pack26 p)).toNat = 1 - ((List.range 11).countP fun k => p.getLsbD k) % 2 := by
  rw [oddPar_toNat, List.range_succ_eq_map,
    List.countP_cons_of_neg (by rw [pack26_getLsbD_zero]; decide), List.countP_map]
  simp only [Function.comp_def, Nat.succ_eq_add_one, pack26_getLsbD_succ]

/-- Settles O7: the counts over the frame, and over the payload by the bits of the packed frame. -/
theorem parityBitsCountThePayload : Obligations.ParityBitsCountThePayload :=
  ⟨fun w => ⟨evenPar_toNat w, oddPar_toNat w, oddPar_or_top w _, evenPar_or_bottom w _⟩,
    fun p => ⟨evenPar_pack26_toNat p, oddPar_pack26_toNat p⟩⟩

/-! The assembled frame (R105) and its number in the response (R67, R122). -/

theorem assemble_pack26 (p : Payload) : assemble (pack26 p) = evenPar (pack26 p) ++ p ++ oddPar (pack26 p) := by
  have concat (pe po : BitVec 1) :
      pe ++ p ++ po = pe.setWidth 26 <<< 25 ||| p.setWidth 26 <<< 1 ||| po.setWidth 26 := by
    exact (BitVec.setWidth_eq _).symm.trans BitVec.setWidth_append_append_eq_shiftLeft_setWidth_or
  rw [concat, assemble, BitVec.or_comm (pack26 p), pack26]

theorem assemble_pack26_toNat (p : Payload) :
    (assemble (pack26 p)).toNat
      = (evenPar (pack26 p)).toNat * 2 ^ 25 + p.toNat * 2 + (oddPar (pack26 p)).toNat := by
  rw [assemble_pack26, toNat_append_eq_add, toNat_append_eq_add]
  omega

theorem slice26_hex_toNat (b : Frame) : (slice26 b).hex.toNat = b.toNat :=
  BitVec.toNat_setWidth_of_le (by decide)

theorem slice26_hexadecimal (b : Frame) : (slice26 b).hexadecimal = hexRender b.toNat 7 := by
  rw [Wiegand26Result.hexadecimal, slice26_hex_toNat, Config.hex26Digits]

/-- Settles O8: the frame is a concatenation, and `hex` is the frame in two more bits. -/
theorem frameIsParityPayloadParity : Obligations.FrameIsParityPayloadParity :=
  fun p => ⟨assemble_pack26_toNat p, BitVec.isLt _, slice26_hex_toNat _, slice26_hexadecimal _⟩

end Sys2Proof.Machine
end

section
/-!
PROOFS of the family 41_w26_decode.md: the fields that SLICE26 cuts, as numbers (R122, R123) and as slices of the payload
bits 24 to 1 (R127), and what `W26.DEC` and the accessors answer once VALID26 is decided (R120, R121, R124 to R126).
-/
namespace Sys2Proof.Machine

/-! SLICE26 and FCID as numbers (R122, R123). -/

theorem extractLsb'_toNat_eq_div_mod {n : Nat} (v : BitVec n) (k l : Nat) :
    (v.extractLsb' k l).toNat = v.toNat / 2 ^ k % 2 ^ l := by
  rw [extractLsb'_eq_ofNat, BitVec.toNat_ofNat]

/-- A slice at another width. -/
theorem setWidth_extractLsb'_eq_ofNat {n : Nat} (v : BitVec n) (k l m : Nat) :
    (v.extractLsb' k l).setWidth m = BitVec.ofNat m (v.toNat / 2 ^ k % 2 ^ l) := by
  rw [← extractLsb'_toNat_eq_div_mod, BitVec.ofNat_toNat]

theorem slice26_pay_toNat (b : Frame) : (slice26 b).pay.toNat = b.toNat / 2 % 2 ^ 24 :=
  extractLsb'_toNat_eq_div_mod b 1 24

theorem slice26_fc_toNat (b : Frame) : (slice26 b).fc.toNat = b.toNat / 2 ^ 17 % 256 :=
  extractLsb'_toNat_eq_div_mod b 17 8

theorem slice26_idn_toNat (b : Frame) : (slice26 b).idn.toNat = b.toNat / 2 % 65536 :=
  extractLsb'_toNat_eq_div_mod b 1 16

/-- The payload is the facility code above the id number. -/
theorem slice26_pay_eq_fc_idn (b : Frame) :
    (slice26 b).pay.toNat = (slice26 b).fc.toNat * 65536 + (slice26 b).idn.toNat := by
  rw [slice26_pay_toNat, slice26_fc_toNat, slice26_idn_toNat]
  omega

/-- FCID fits its 25 bits. -/
theorem fcidOf_toNat (fc : BitVec 8) (idn : BitVec 16) : (fcidOf fc idn).toNat = fc.toNat * 100000 + idn.toNat := by
  have hfc := fc.isLt
  have hidn := idn.isLt
  rw [fcidOf, BitVec.toNat_ofNat, Config.fcidWeight, Nat.mod_eq_of_lt (by omega)]

theorem slice26_fcid_toNat (b : Frame) :
    (slice26 b).fcid.toNat = (slice26 b).fc.toNat * 100000 + (slice26 b).idn.toNat :=
  fcidOf_toNat _ _

/-! The answers when VALID26 is decided (R120, R121, R124 to R126). -/

theorem exists_valid26 {code : CodeOperand} (hk : code.kind = .value) (hv : code.val.toNat < 2 ^ 26) :
    ∃ b : Frame, code.valid26 = some b ∧ b.toNat = code.val.toNat := by
  cases h : code.valid26 with
  | none => exact absurd ((valid26_eq_none_iff code).1 h) (not_or.2 ⟨not_not.2 hk, hv.not_ge⟩)
  | some b => exact ⟨b, rfl, ((valid26_eq_some_iff code b).1 h).2⟩

theorem exec_w26Dec_of_isNone {code : CodeOperand} (s : State) (h : code.kind = .absent ∨ code.kind = .blank) :
    exec (.w26Dec code) s = .next { s with phase := .idle, rspPort := s.rspPort ++ [.absent] } :=
  if_pos ((isNone_iff code).2 h)

theorem exec_w26Dec_of_malformed {code : CodeOperand} (s : State)
    (h : code.kind = .ovf ∨ (code.kind = .value ∧ 2 ^ 26 ≤ code.val.toNat)) :
    exec (.w26Dec code) s = .next { s with rspPort := s.rspPort ++ [.malformed] } := by
  have hn : code.isNone = false := by
    obtain hk | ⟨hk, -⟩ := h <;> rw [CodeOperand.isNone, hk]
  have hv : code.valid26 = none :=
    (valid26_eq_none_iff code).2 (h.imp (fun hk => by rw [hk]; decide) And.right)
  simp only [exec, execW26Dec, hn, hv]; rfl

theorem exec_w26Dec_of_valid26 {code : CodeOperand} {b : Frame} (s : State) (h : code.valid26 = some b) :
    exec (.w26Dec code) s = .next { s with phase := .idle, rspPort := s.rspPort ++ [.okFrame (slice26 b)] } := by
  have hn : code.isNone = false := by
    rw [CodeOperand.isNone, ((valid26_eq_some_iff code b).1 h).1]
  simp only [exec, execW26Dec, hn, h]; rfl

theorem readField_of_malformed (f : Frame → BitVec 24) {code : CodeOperand} (s : State) (h : code.valid26 = none) :
    readField f code s = .next { s with rspPort := s.rspPort ++ [.malformed] } := by
  rw [readField, h]; rfl

theorem readField_of_valid26 (f : Frame → BitVec 24) {code : CodeOperand} {b : Frame} (s : State)
    (h : code.valid26 = some b) :
    readField f code s = .next { s with phase := .idle, rspPort := s.rspPort ++ [.okAcc (f b)] } := by
  rw [readField, h]; rfl

/-- Settles O15: the three ends of `W26.DEC`, and SLICE26 as numbers. -/
theorem w26DecAnswersTheFields : Obligations.W26DecAnswersTheFields := by
  refine fun code s => ⟨exec_w26Dec_of_isNone s, fun h => exec_w26Dec_of_malformed s ?_, fun hk hsize => ?_⟩
  · rwa [Nat.lt_size] at h
  · obtain ⟨b, hvalid, hb⟩ := exists_valid26 hk (Nat.size_le.1 hsize)
    rw [← hb]
    exact ⟨slice26 b, exec_w26Dec_of_valid26 s hvalid, slice26_hex_toNat b, slice26_pay_toNat b, slice26_fc_toNat b,
      slice26_idn_toNat b, slice26_pay_eq_fc_idn b, slice26_fcid_toNat b⟩

/-- Settles O17: the validation decides the answer, and each accessor's field is a slice at width 24. -/
theorem accessorsAnswerTheirField : Obligations.AccessorsAnswerTheirField := by
  refine fun code s => ⟨fun hk hv => ?_, fun h => ?_⟩
  · obtain ⟨b, hvalid, hb⟩ := exists_valid26 hk hv
    have field (k l : Nat) :
        readField (fun b => (b.extractLsb' k l).setWidth 24) code s
          = .next { s with
              phase := .idle
              rspPort := s.rspPort ++ [.okAcc (BitVec.ofNat 24 (code.val.toNat / 2 ^ k % 2 ^ l))] } := by
      rw [readField_of_valid26 _ s hvalid, setWidth_extractLsb'_eq_ofNat, hb]
    have pay := field 1 24
    simp only [BitVec.setWidth_eq] at pay
    exact ⟨field 17 8, field 1 16, pay⟩
  · have hvalid := (valid26_eq_none_iff code).2 h
    exact ⟨readField_of_malformed _ s hvalid, readField_of_malformed _ s hvalid, readField_of_malformed _ s hvalid⟩

/-! The parity bits are outside every field but `hex` (R127). -/

/-- A slice that lies inside a slice. -/
theorem extractLsb'_extractLsb'_add {n : Nat} (v : BitVec n) (k l i m : Nat) (h : i + m ≤ l) :
    (v.extractLsb' k l).extractLsb' i m = v.extractLsb' (k + i) m := by
  ext j hj
  rw [BitVec.getElem_extractLsb', BitVec.getElem_extractLsb', BitVec.getLsbD_extractLsb',
    decide_eq_true (by omega), Bool.true_and, Nat.add_assoc]

/-- The facility code is the upper part of the payload. -/
theorem extract_fc_of_payload (b : Frame) : b.extractLsb' 17 8 = (b.extractLsb' 1 24).extractLsb' 16 8 :=
  (extractLsb'_extractLsb'_add b 1 24 16 8 (by decide)).symm

/-- The id number is the lower part of the payload. -/
theorem extract_idn_of_payload (b : Frame) : b.extractLsb' 1 16 = (b.extractLsb' 1 24).extractLsb' 0 16 :=
  (extractLsb'_extractLsb'_add b 1 24 0 16 (by decide)).symm

theorem slice26_eq_of_payload {b b' : Frame} (h : b.extractLsb' 1 24 = b'.extractLsb' 1 24) :
    slice26 b' = { slice26 b with hex := (slice26 b').hex } := by
  simp only [slice26, extract_fc_of_payload, extract_idn_of_payload, h]

/-- Settles O18: two frames with the same payload have the same slices of the payload. -/
theorem parityIsNotCheckedOnDecode : Obligations.ParityIsNotCheckedOnDecode := by
  intro v v' s hv hv' hpay
  obtain ⟨b, hvalid, hb⟩ := exists_valid26 (code := ⟨.value, v⟩) rfl hv
  obtain ⟨b', hvalid', hb'⟩ := exists_valid26 (code := ⟨.value, v'⟩) rfl hv'
  have payload : b.extractLsb' 1 24 = b'.extractLsb' 1 24 := by
    apply BitVec.eq_of_toNat_eq
    rw [extractLsb'_toNat_eq_div_mod, extractLsb'_toNat_eq_div_mod, hb, hb']
    exact hpay
  have alike (f : Frame → BitVec 24) (hf : f b = f b') :
      readField f ⟨.value, v⟩ s = readField f ⟨.value, v'⟩ s := by
    rw [readField_of_valid26 f s hvalid, readField_of_valid26 f s hvalid', hf]
  refine ⟨⟨slice26 b, slice26 b', exec_w26Dec_of_valid26 s hvalid, exec_w26Dec_of_valid26 s hvalid',
    slice26_eq_of_payload payload, (slice26_hex_toNat b).trans hb, (slice26_hex_toNat b').trans hb'⟩,
    alike _ ?_, alike _ ?_, alike _ payload⟩
  · simp only [extract_fc_of_payload, payload]
  · simp only [extract_idn_of_payload, payload]

end Sys2Proof.Machine
end

section
/-!
PROOFS of the family 42_w64_encode.md: the padded identifier index by index (R141), the packed word as a number whose
upper part is the packing of the first groups (R143, R144), and the three ends of `W64.ENC` (R140).
-/
namespace Sys2Proof

/-! The identifier of an operand with its ten slots (R23, R63). -/

theorem IdOperand.ch_length {id : IdOperand} (hw : id.wf = true) : id.ch.length = 10 :=
  eq_of_beq hw

theorem IdOperand.text_length {id : IdOperand} (hw : id.wf = true) (h : id.len.toNat ≤ 10) :
    id.text.length = id.len.toNat := by
  rw [IdOperand.text, List.length_take, IdOperand.ch_length hw, Nat.min_eq_left h]

theorem IdOperand.text_getElem? {id : IdOperand} (hw : id.wf = true) (h : id.len.toNat ≤ 10) {k : Nat}
    (hk : k < id.len.toNat) : id.text[k]? = some (id.ch.getD k 0) := by
  have hslot : k < id.ch.length := by rw [IdOperand.ch_length hw]; omega
  rw [IdOperand.text, List.getElem?_take_of_lt hk, List.getElem?_eq_getElem hslot, List.getD_eq_getElem _ _ hslot]

end Sys2Proof

namespace Sys2Proof.Machine

/-! PAD10 (R141). -/

theorem pad10_length {t : Str} (h : t.length ≤ 10) : (pad10 t).length = 10 := by
  rw [pad10, List.length_append, List.length_replicate, Config.nChars]
  omega

theorem pad10_getElem? (t : Str) (i : Nat) :
    (pad10 t)[i]? = if i < 10 - t.length then some 0x20#8 else t[i - (10 - t.length)]? := by
  rw [pad10, Config.nChars, List.getElem?_append, List.length_replicate]
  refine ite_congr rfl (fun hi => ?_) (fun _ => rfl)
  rw [List.getElem?_replicate, if_pos hi]

/-- Settles O21: below the length of the padding stand spaces, behind it the identifier. -/
theorem paddingIsOnTheLeft : Obligations.PaddingIsOnTheLeft :=
  fun t _ h => ⟨pad10_length h, fun i _ => pad10_getElem? t i⟩

/-! PACK64 (R143, R144). Each group is the last digit to base 64 of the word packed so far. -/

theorem pack64_nil_toNat : (pack64 []).toNat = 6 := rfl

theorem pack64_concat (g : List Group) (x : Group) : pack64 (g ++ [x]) = (pack64 g ++ x).setWidth 64 := by
  rw [BitVec.setWidth_append_eq_shiftLeft_setWidth_or, BitVec.setWidth_eq, pack64, List.foldl_concat, pack64]

theorem pack64_concat_toNat (g : List Group) (x : Group) :
    (pack64 (g ++ [x])).toNat = ((pack64 g).toNat * 64 + x.toNat) % 2 ^ 64 := by
  rw [pack64_concat, BitVec.toNat_setWidth, toNat_append_eq_add]
  omega

/-- The last group is the lowest 6 bits. -/
theorem ofNat_pack64_concat (g : List Group) (x : Group) : BitVec.ofNat 6 (pack64 (g ++ [x])).toNat = x := by
  apply BitVec.eq_of_toNat_eq
  rw [BitVec.toNat_ofNat, pack64_concat_toNat]
  omega

theorem pack64_toNat_lt (g : List Group) : (pack64 g).toNat < 7 * 64 ^ g.length := by
  induction g using List.reverseRecOn with
  | nil => rw [pack64_nil_toNat]; decide
  | append_singleton g x ih =>
    rw [pack64_concat_toNat, List.length_append, List.length_singleton, Nat.pow_succ]
    omega

/-- Up to ten groups nothing is shifted out of the word. -/
theorem pack64_concat_div {g : List Group} (x : Group) (h : g.length < 10) :
    (pack64 (g ++ [x])).toNat / 64 = (pack64 g).toNat := by
  have bound := pack64_toNat_lt g
  have room : 64 ^ g.length ≤ 64 ^ 9 := Nat.pow_le_pow_right (by decide) (by omega)
  rw [pack64_concat_toNat]
  omega

/-- The upper part of the word is the packing of the first groups. -/
theorem pack64_append_div (a b : List Group) (h : (a ++ b).length ≤ 10) :
    (pack64 (a ++ b)).toNat / 64 ^ b.length = (pack64 a).toNat := by
  induction b using List.reverseRecOn with
  | nil => simp
  | append_singleton b x ih =>
    rw [← List.append_assoc, List.length_append, List.length_singleton] at h
    rw [← List.append_assoc, List.length_append, List.length_singleton, Nat.pow_succ', ← Nat.div_div_eq_div_mul,
      pack64_concat_div x (by omega), ih (by omega)]

theorem pack64_header {g : List Group} (h : g.length = 10) : (pack64 g).toNat / 2 ^ 60 = 6 := by
  have upper := pack64_append_div [] g h.le
  rwa [List.nil_append, h, pack64_nil_toNat] at upper

theorem pack64_group {g : List Group} (h : g.length = 10) {i : Nat} (hi : i < 10) :
    g[i]? = some (BitVec.ofNat 6 ((pack64 g).toNat / 2 ^ (54 - 6 * i))) := by
  have hi' : i < g.length := by omega
  have split : g.take i ++ [g[i]] ++ g.drop (i + 1) = g := by
    rw [List.take_append_getElem, List.take_append_drop]
  have upper := pack64_append_div (g.take i ++ [g[i]]) (g.drop (i + 1)) (by rw [split, h])
  have weight : 2 ^ (54 - 6 * i) = 64 ^ (g.drop (i + 1)).length := by
    rw [List.length_drop, h, show 54 - 6 * i = 6 * (10 - (i + 1)) by omega, Nat.pow_mul]
  rw [split] at upper
  rw [List.getElem?_eq_getElem hi', weight, upper, ofNat_pack64_concat]

/-- Settles O22: the header is what remains above ten groups, and group `i` the lowest digit of what remains above the
groups behind it. -/
theorem packedGroupsStandAtTheirBits : Obligations.PackedGroupsStandAtTheirBits :=
  fun _ h => ⟨pack64_header h, fun _ hi => pack64_group h hi⟩

/-! The three ends of `W64.ENC` (R140). -/

theorem exec_w64Enc_of_absent {id : IdOperand} (s : State) (h : id.present = false ∨ id.len = 0#8) :
    exec (.w64Enc id) s = .next { s with phase := .idle, rspPort := s.rspPort ++ [.absent] } :=
  if_pos ((isAbsent_iff id).2 h)

theorem isAbsent_of_len_pos {id : IdOperand} (hp : id.present = true) (hl : 1 ≤ id.len.toNat) :
    id.isAbsent = false :=
  (isAbsent_eq_false_iff id).2 ⟨hp, fun h0 => by rw [h0] at hl; exact absurd hl (by decide)⟩

theorem exec_w64Enc_of_tooLong {id : IdOperand} (s : State) (hp : id.present = true) (hl : 10 < id.len.toNat) :
    exec (.w64Enc id) s = .next { s with rspPort := s.rspPort ++ [.tooLong] } := by
  have ha := isAbsent_of_len_pos hp (by omega)
  have ht := (isTooLong_iff id).2 hl
  simp only [exec, execW64Enc, ha, ht]; rfl

theorem exec_w64Enc_of_fits {id : IdOperand} (s : State) (hp : id.present = true) (h1 : 1 ≤ id.len.toNat)
    (h10 : id.len.toNat ≤ 10) :
    exec (.w64Enc id) s = .next { s with
      phase := .idle
      rspPort := s.rspPort ++ [.okCode64 (pack64 ((pad10 id.text).map alpha))] } := by
  have ha := isAbsent_of_len_pos hp h1
  have ht := (isTooLong_eq_false_iff id).2 h10
  simp only [exec, execW64Enc, ha, ht]; rfl

/-! The answered word (R140, R144). -/

/-- MAP after PAD10: zero groups, then the mapped characters. -/
theorem map_alpha_pad10_getElem? {id : IdOperand} (hw : id.wf = true) (h : id.len.toNat ≤ 10) {i : Nat}
    (hi : i < 10) :
    ((pad10 id.text).map alpha)[i]?
      = some (if i < 10 - id.len.toNat then 0#6 else alpha (id.ch.getD (i - (10 - id.len.toNat)) 0)) := by
  rw [List.getElem?_map, pad10_getElem?, IdOperand.text_length hw h]
  by_cases hpad : i < 10 - id.len.toNat
  · rw [if_pos hpad, if_pos hpad]; rfl
  · rw [if_neg hpad, if_neg hpad, IdOperand.text_getElem? hw h (by omega)]; rfl

/-- Settles O23: the operand's tests decide the end, and the word is the packing of the mapped, padded identifier. -/
theorem w64EncAnswersTheWord : Obligations.W64EncAnswersTheWord := by
  refine fun id s => ⟨exec_w64Enc_of_absent s, exec_w64Enc_of_tooLong s, fun hw hp h1 h10 => ?_⟩
  have hlen : ((pad10 id.text).map alpha).length = 10 := by
    rw [List.length_map, pad10_length ((IdOperand.text_length hw h10).trans_le h10)]
  have header := pack64_header hlen
  refine ⟨_, exec_w64Enc_of_fits s hp h1 h10, header, by omega, by omega, fun i hi => ?_⟩
  exact Option.some.inj ((pack64_group hlen hi).symm.trans (map_alpha_pad10_getElem? hw h10 hi))

end Sys2Proof.Machine
end

section
/-!
PROOFS of the family 43_w64_decode.md: the groups of a word and its raw text (R156, R157), what TRIM removes and where
the text it keeps stands (R158), the two ends of `W64.DEC` (R155), and that neither the header nor the bits above
bit 63 are read (R159).
-/
namespace Sys2Proof

/-! What trimming both ends removes, and what it leaves at the ends. -/

theorem trimEnds_eq_rdropWhile (p : Byte → Bool) (t : Str) : trimEnds p t = (t.dropWhile p).rdropWhile p := rfl

theorem trimEnds_split (p : Byte → Bool) (t : Str) :
    ∃ l r, (∀ c ∈ l, p c) ∧ (∀ c ∈ r, p c) ∧ t = l ++ trimEnds p t ++ r := by
  refine ⟨t.takeWhile p, (t.dropWhile p).rtakeWhile p, fun c => List.mem_takeWhile_imp,
    fun c => List.mem_rtakeWhile_imp, ?_⟩
  rw [trimEnds_eq_rdropWhile, List.append_assoc, List.rdropWhile_append_rtakeWhile, List.takeWhile_append_dropWhile]

theorem trimEnds_eq_nil {p : Byte → Bool} {t : Str} (h : ∀ c ∈ t, p c) : trimEnds p t = [] := by
  rw [trimEnds_eq_rdropWhile, List.dropWhile_eq_nil_iff.2 h, List.rdropWhile_nil]

theorem not_of_head?_trimEnds {p : Byte → Bool} {t : Str} {c : Byte} (h : (trimEnds p t).head? = some c) :
    p c = false := by
  obtain ⟨r, hr⟩ := List.rdropWhile_prefix p (t.dropWhile p)
  have first := List.head?_dropWhile_not p t
  rwa [← hr, List.head?_append, ← trimEnds_eq_rdropWhile, h] at first

theorem not_of_getLast?_trimEnds {p : Byte → Bool} {t : Str} {c : Byte} (h : (trimEnds p t).getLast? = some c) :
    p c = false := by
  have hne : trimEnds p t ≠ [] := fun hnil => by rw [hnil] at h; cases h
  rw [List.getLast?_eq_some_getLast hne, Option.some_inj] at h
  rw [← h]
  exact Bool.eq_false_iff.2 (List.rdropWhile_last_not p (t.dropWhile p) hne)

end Sys2Proof

namespace Sys2Proof.Machine

/-! UNPACK64 and the reverse map (R156, R157). -/

theorem unpack64_length (v : BitVec 64) : (unpack64 v).length = 10 := by
  rw [unpack64, List.length_map, List.length_range]

theorem unpack64_getElem? (v : BitVec 64) {i : Nat} (hi : i < 10) :
    (unpack64 v)[i]? = some (BitVec.ofNat 6 (v.toNat / 2 ^ (54 - 6 * i) % 64)) := by
  have group : v.extractLsb' (54 - 6 * i) 6 = BitVec.ofNat 6 (v.toNat / 2 ^ (54 - 6 * i) % 2 ^ 6) := by
    rw [← extractLsb'_toNat_eq_div_mod, BitVec.ofNat_toNat, BitVec.setWidth_eq]
  rw [unpack64, List.getElem?_map, List.getElem?_range hi]
  exact congrArg some group

theorem map_rev_unpack64_length (v : BitVec 64) : ((unpack64 v).map rev).length = 10 := by
  rw [List.length_map, unpack64_length]

theorem map_rev_unpack64_getElem? (v : BitVec 64) {i : Nat} (hi : i < 10) :
    ((unpack64 v).map rev)[i]? = some (rev (BitVec.ofNat 6 (v.toNat / 2 ^ (54 - 6 * i) % 64))) := by
  rw [List.getElem?_map, unpack64_getElem? v hi, Option.map_some]

/-- Every one of the 64 group values has an image. -/
theorem rev_isDecodedChar (g : Group) : isDecodedChar (rev g) := by
  revert g; decide

/-- Settles O24: the groups by UNPACK64's slices, the characters by their images. -/
theorem rawTextReverseMapsTheGroups : Obligations.RawTextReverseMapsTheGroups := by
  refine fun v => ⟨_, _, _, rfl, map_rev_unpack64_length v, fun i => unpack64_getElem? v,
    fun i => map_rev_unpack64_getElem? v, fun c hc => ?_⟩
  obtain ⟨g, -, rfl⟩ := List.mem_map.1 hc
  exact rev_isDecodedChar g

/-! TRIM (R158). -/

/-- The raw text is the trimmed text between two runs of spaces. -/
theorem trimText_split (raw : Str) :
    ∃ m n, raw = List.replicate m 0x20#8 ++ trimText raw ++ List.replicate n 0x20#8 := by
  obtain ⟨l, r, hl, hr, hsplit⟩ := trimEnds_split (· == Config.space) raw
  refine ⟨l.length, r.length, ?_⟩
  rwa [← List.eq_replicate_of_mem fun c hc => eq_of_beq (hl c hc),
    ← List.eq_replicate_of_mem fun c hc => eq_of_beq (hr c hc)]

theorem trimText_head?_ne (raw : Str) : (trimText raw).head? ≠ some 0x20#8 :=
  fun h => absurd (not_of_head?_trimEnds h) (by decide)

theorem trimText_getLast?_ne (raw : Str) : (trimText raw).getLast? ≠ some 0x20#8 :=
  fun h => absurd (not_of_getLast?_trimEnds h) (by decide)

theorem trimText_eq_nil {raw : Str} (h : ∀ c ∈ raw, c = 0x20#8) : trimText raw = [] :=
  trimEnds_eq_nil fun c hc => beq_iff_eq.2 (h c hc)

theorem trimText_length_le (raw : Str) : (trimText raw).length ≤ raw.length := by
  obtain ⟨m, n, hsplit⟩ := trimText_split raw
  have hlen := congrArg List.length hsplit
  rw [List.length_append, List.length_append] at hlen
  omega

/-- The characters of a text between two runs of spaces. -/
theorem getElem?_of_spaces_around {raw t : Str} {m n : Nat}
    (h : raw = List.replicate m 0x20#8 ++ t ++ List.replicate n 0x20#8) :
    (∀ k, k < m → raw[k]? = some 0x20#8) ∧
    (∀ j, j < t.length → raw[m + j]? = t[j]?) ∧
    ∀ k, m + t.length ≤ k → k < raw.length → raw[k]? = some 0x20#8 := by
  subst h
  refine ⟨fun k hk => ?_, fun j hj => ?_, fun k hk hlt => ?_⟩
  · rw [List.append_assoc, List.getElem?_append_left (by rwa [List.length_replicate]), List.getElem?_replicate,
      if_pos hk]
  · rw [List.append_assoc, List.getElem?_append_right (by simp), List.length_replicate, Nat.add_sub_cancel_left,
      List.getElem?_append_left hj]
  · simp only [List.length_append, List.length_replicate] at hlt
    rw [List.getElem?_append_right (by simpa), List.getElem?_replicate, if_pos (by simp; omega)]

/-- With `a` and `b` the least and greatest index of a character that is no space, the trimmed text is the part from
`a` to `b`: the two runs of spaces around it end and begin there. -/
theorem trimText_eq_take_drop {raw : Str} {a b : Nat} (hab : a ≤ b) (hb : b < raw.length)
    (ha_ne : raw[a]? ≠ some 0x20#8) (hb_ne : raw[b]? ≠ some 0x20#8)
    (before : ∀ k, k < a → raw[k]? = some 0x20#8)
    (after : ∀ k, b < k → k < raw.length → raw[k]? = some 0x20#8) :
    trimText raw = (raw.drop a).take (b - a + 1) := by
  obtain ⟨m, n, hsplit⟩ := trimText_split raw
  obtain ⟨left, middle, right⟩ := getElem?_of_spaces_around hsplit
  have room : m + (trimText raw).length ≤ raw.length := by
    conv_rhs => rw [hsplit]
    simp
  have m_le_a : m ≤ a := not_lt.1 fun h => ha_ne (left a h)
  have b_lt : b < m + (trimText raw).length := not_le.1 fun h => hb_ne (right b h hb)
  have a_le_m : a ≤ m := not_lt.1 fun h => trimText_head?_ne raw (by
    rw [List.head?_eq_getElem?, ← middle 0 (by omega), Nat.add_zero, before m h])
  have le_b : m + ((trimText raw).length - 1) ≤ b := not_lt.1 fun h => trimText_getLast?_ne raw (by
    rw [List.getLast?_eq_getElem?, ← middle _ (by omega), after _ h (by omega)])
  obtain rfl : m = a := by omega
  have hlen : b - m + 1 = (trimText raw).length := by omega
  conv_rhs => rw [hsplit, hlen, List.append_assoc, List.drop_left' List.length_replicate, List.take_left]

/-! The text in its ten slots (R24). -/

theorem alignText_length {t : Str} (h : t.length ≤ 10) : (alignText t).length = 10 := by
  rw [alignText, List.length_append, List.length_replicate, Config.nChars]
  omega

theorem alignText_take (t : Str) : (alignText t).take t.length = t := List.take_left

theorem eq_space_of_mem_drop_alignText {t : Str} {c : Byte} (h : c ∈ (alignText t).drop t.length) : c = 0x20#8 := by
  rw [alignText, List.drop_left] at h
  exact List.eq_of_mem_replicate h

theorem alignText_getElem?_of_lt {t : Str} {j : Nat} (h : j < t.length) : (alignText t)[j]? = t[j]? :=
  List.getElem?_append_left h

theorem alignText_getElem?_of_le {t : Str} {j : Nat} (h : t.length ≤ j) (hj : j < 10) :
    (alignText t)[j]? = some 0x20#8 := by
  rw [alignText, List.getElem?_append_right h, List.getElem?_replicate, if_pos (by rw [Config.nChars]; omega)]

/-- TLEN holds the length of every trimmed text. -/
theorem tlen_toNat {t : Str} (h : t.length ≤ 10) : (BitVec.ofNat 4 t.length).toNat = t.length := by
  rw [BitVec.toNat_ofNat, Nat.mod_eq_of_lt (by omega)]

theorem trimText_map_rev_length_le (v : BitVec 64) : (trimText ((unpack64 v).map rev)).length ≤ 10 :=
  (trimText_length_le _).trans_eq (map_rev_unpack64_length v)

/-- Settles O25: the whole trimmed text from its first to its last index, aligned in its slots. -/
theorem trimRemovesTheOuterSpaces : Obligations.TrimRemovesTheOuterSpaces := by
  intro v
  have hraw := map_rev_unpack64_length v
  have hle := trimText_map_rev_length_le v
  refine ⟨_, _, _, rfl, alignText_length hle, fun h => ?_, fun a b hab hb ha_ne hb_ne before after => ?_⟩
  · rw [trimText_eq_nil h]; decide
  · have htrim := trimText_eq_take_drop hab (by omega) ha_ne hb_ne before (by rwa [hraw])
    have hlen : (trimText ((unpack64 v).map rev)).length = b - a + 1 := by
      rw [htrim, List.length_take, List.length_drop, hraw]; omega
    refine ⟨(tlen_toNat hle).trans hlen, fun j hj => ?_, fun j hj => alignText_getElem?_of_le (hlen.trans_le hj)⟩
    rw [alignText_getElem?_of_lt (by omega), htrim, List.getElem?_take_of_lt hj, List.getElem?_drop]

/-! The two ends of `W64.DEC` (R155). -/

theorem exec_w64Dec_of_isNone {code : CodeOperand} (s : State) (h : code.kind = .absent ∨ code.kind = .blank) :
    exec (.w64Dec code) s = .next { s with phase := .idle, rspPort := s.rspPort ++ [.absent] } :=
  if_pos ((isNone_iff code).2 h)

theorem exec_w64Dec_of_value_or_ovf {code : CodeOperand} (s : State) (h : code.kind = .value ∨ code.kind = .ovf) :
    exec (.w64Dec code) s = .next { s with phase := .idle, rspPort := s.rspPort ++ [textResponse code.val] } := by
  have hn : code.isNone = false := by
    obtain hk | hk := h <;> rw [CodeOperand.isNone, hk]
  exact if_neg (Bool.eq_false_iff.1 hn)

/-- Settles O26: the two ends, and the trimmed text between two runs of spaces. -/
theorem w64DecAlwaysAnswers : Obligations.W64DecAlwaysAnswers := by
  refine fun code s => ⟨exec_w64Dec_of_isNone s, fun h => ⟨_, _, _, exec_w64Dec_of_value_or_ovf s h,
    fun i => map_rev_unpack64_getElem? code.val, map_rev_unpack64_length code.val, ?_⟩⟩
  have hle := trimText_map_rev_length_le code.val
  rw [tlen_toNat hle, alignText_take]
  exact ⟨hle, alignText_length hle, trimText_split _, trimText_head?_ne _, trimText_getLast?_ne _,
    fun c => eq_space_of_mem_drop_alignText⟩

/-! The bits that are not read (R159). -/

theorem unpack64_eq_of_low60 {v v' : BitVec 64} (h : v.toNat % 2 ^ 60 = v'.toNat % 2 ^ 60) :
    unpack64 v = unpack64 v' := by
  have low : v.setWidth 60 = v'.setWidth 60 :=
    BitVec.eq_of_toNat_eq (by rwa [BitVec.toNat_setWidth, BitVec.toNat_setWidth])
  refine List.map_congr_left fun i _ => ?_
  rw [← extractLsb'_setWidth_of_le v 60 _ 6 (by omega), low, extractLsb'_setWidth_of_le v' 60 _ 6 (by omega)]

/-- Settles O27: the response is a function of the groups, and the groups of bits 59 to 0. -/
theorem w64DecIgnoresTheHeader : Obligations.W64DecIgnoresTheHeader := by
  intro v v' k k' s hk hk' h
  have answer : textResponse v = textResponse v' := by
    rw [textResponse, textResponse, unpack64_eq_of_low60 h]
  rw [exec_w64Dec_of_value_or_ovf s (List.mem_pair.1 hk), exec_w64Dec_of_value_or_ovf s (List.mem_pair.1 hk'),
    answer]

end Sys2Proof.Machine
end

section
/-!
PROOFS of the family 60_exceptions.md: which operand makes an operation answer which status (R170 to R174), and the frame
of a command and of the second half of `W26.ENC` (R186).
-/
namespace Sys2Proof.Machine

/-! The response in a result, for each primitive of R11. -/

/-- The result is a next state whose response port holds one response more than that of `s`, and this is it. -/
def Answers (res : Result) (s : State) (r : Response) : Prop :=
  ∃ t : State, res = .next t ∧ t.rspPort = s.rspPort ++ [r]

theorem answers_next_iff {s u : State} {r r' : Response} (hu : u.rspPort = s.rspPort ++ [r']) :
    Answers (.next u) s r ↔ r = r' := by
  constructor
  · rintro ⟨t, ht, hr⟩
    cases ht
    exact (List.append_singleton_inj.1 (hr.symm.trans hu)).2
  · rintro rfl
    exact ⟨u, rfl, hu⟩

theorem answers_ok_iff {s : State} {r r' : Response} : Answers (ok r' s) s r ↔ r = r' := answers_next_iff rfl

theorem answers_absent_iff {s : State} {r : Response} : Answers (absent s) s r ↔ r = .absent := answers_next_iff rfl

theorem answers_raise_iff {s : State} {r : Response} {e : ErrorKind} : Answers (raise e s) s r ↔ r = e.response :=
  answers_next_iff rfl

/-- A digest request is no answer. -/
theorem not_answers_awaitDigest (t : Str) (s : State) (r : Response) : ¬Answers (awaitDigest t s) s r := by
  rintro ⟨u, hu, hr⟩
  cases hu
  exact absurd hr (by simp)

/-! The status of the answer of each operation (R171, R172, R174). -/

/-- The statuses ABSENT, TOO_LONG and MALFORMED stand in `r` exactly for these three causes, and no other status but OK
does. -/
structure StatusCauses (r : Response) (absent tooLong malformed : Prop) : Prop where
  absent_iff : r.status = 1#3 ↔ absent
  tooLong_iff : r.status = 2#3 ↔ tooLong
  malformed_iff : r.status = 3#3 ↔ malformed
  status_le : r.status.toNat ≤ 3

section
variable {a l m : Prop}

theorem StatusCauses.of_ok {r : Response} (hr : r.status = 0#3) (ha : ¬a) (hl : ¬l) (hm : ¬m) :
    StatusCauses r a l m := by
  constructor <;> simp [hr, ha, hl, hm]

theorem StatusCauses.of_absent (ha : a) (hl : ¬l) (hm : ¬m) : StatusCauses .absent a l m := by
  constructor <;> simp [Response.status, ha, hl, hm]

theorem StatusCauses.of_tooLong (ha : ¬a) (hl : l) (hm : ¬m) : StatusCauses .tooLong a l m := by
  constructor <;> simp [Response.status, ha, hl, hm]

theorem StatusCauses.of_malformed (ha : ¬a) (hl : ¬l) (hm : m) : StatusCauses .malformed a l m := by
  constructor <;> simp [Response.status, ha, hl, hm]

end

section
variable {id : IdOperand} {code : CodeOperand} {s : State} {r : Response}

/-- An identifier with at least one character is not absent (R63). -/
theorem not_absent_of_len_pos (hp : id.present = true) (hl : 1 ≤ id.len.toNat) :
    ¬(id.present = false ∨ id.len = 0#8) := by
  rw [← isAbsent_iff, isAbsent_of_len_pos hp hl]
  decide

/-- An absent identifier is not too long, whatever its other fields hold: the test for absence comes first (R176). -/
theorem not_tooLong_of_absent (h : id.present = false ∨ id.len = 0#8) : ¬(id.present = true ∧ 10 < id.len.toNat) :=
  fun ⟨hp, hl⟩ => not_absent_of_len_pos hp (by omega) h

/-- What the two encoders share: the tests for an absent and for a long identifier; past them the answer, if there is one
already, is OK. -/
theorem encoder_statusCauses {res : Result}
    (hres : ((id.present = false ∨ id.len = 0#8) ∧ res = absent s) ∨
      (id.present = true ∧ 10 < id.len.toNat ∧ res = raise .inputTooLong s) ∨
      (id.present = true ∧ 1 ≤ id.len.toNat ∧ id.len.toNat ≤ 10 ∧ (Answers res s r → r.status = 0#3)))
    (h : Answers res s r) :
    StatusCauses r (id.present = false ∨ id.len = 0#8) (id.present = true ∧ 10 < id.len.toNat) False := by
  obtain ⟨ha, rfl⟩ | ⟨hp, hl, rfl⟩ | ⟨hp, h1, h10, hok⟩ := hres
  · obtain rfl := answers_absent_iff.1 h
    exact .of_absent ha (not_tooLong_of_absent ha) not_false
  · obtain rfl := answers_raise_iff.1 h
    exact .of_tooLong (not_absent_of_len_pos hp (by omega)) ⟨hp, hl⟩ not_false
  · exact .of_ok (hok h) (not_absent_of_len_pos hp h1) (fun hl => h10.not_gt hl.2) not_false

theorem execW26Enc_statusCauses (h : Answers (execW26Enc id s) s r) :
    StatusCauses r (id.present = false ∨ id.len = 0#8) (id.present = true ∧ 10 < id.len.toNat) False := by
  refine encoder_statusCauses ((execW26Enc_cases id s).imp_right (.imp_right ?_)) h
  rintro ⟨hp, h1, h10, e⟩
  exact ⟨hp, h1, h10, fun h => absurd (e ▸ h) (not_answers_awaitDigest _ _ _)⟩

theorem execW64Enc_statusCauses (h : Answers (execW64Enc id s) s r) :
    StatusCauses r (id.present = false ∨ id.len = 0#8) (id.present = true ∧ 10 < id.len.toNat) False := by
  refine encoder_statusCauses ((execW64Enc_cases id s).imp_right (.imp_right ?_)) h
  rintro ⟨hp, h1, h10, e⟩
  exact ⟨hp, h1, h10, fun h => answers_ok_iff.1 (e ▸ h) ▸ rfl⟩

theorem execW26Dec_statusCauses (h : Answers (execW26Dec code s) s r) :
    StatusCauses r (code.kind = .absent ∨ code.kind = .blank) False
      (code.kind = .ovf ∨ (code.kind = .value ∧ 2 ^ 26 ≤ code.val.toNat)) := by
  obtain ⟨hk, e⟩ | ⟨hm, e⟩ | ⟨hk, b, hb, e⟩ := execW26Dec_cases code s
  · obtain rfl := answers_absent_iff.1 (e ▸ h)
    exact .of_absent hk not_false (by obtain hk | hk := hk <;> simp [hk])
  · obtain rfl := answers_raise_iff.1 (e ▸ h)
    exact .of_malformed (by obtain hk | ⟨hk, -⟩ := hm <;> simp [hk]) not_false hm
  · obtain rfl := answers_ok_iff.1 (e ▸ h)
    have hv : code.val.toNat < 2 ^ 26 := hb ▸ b.isLt
    exact .of_ok rfl (by simp [hk]) not_false (by simpa [hk] using hv)

theorem readField_statusCauses {f : Frame → BitVec 24} (h : Answers (readField f code s) s r) :
    StatusCauses r False False (code.kind ≠ .value ∨ 2 ^ 26 ≤ code.val.toNat) := by
  obtain ⟨hm, e⟩ | ⟨hk, b, hb, e⟩ := readField_cases f code s
  · obtain rfl := answers_raise_iff.1 (e ▸ h)
    exact .of_malformed not_false not_false hm
  · obtain rfl := answers_ok_iff.1 (e ▸ h)
    have hv : code.val.toNat < 2 ^ 26 := hb ▸ b.isLt
    exact .of_ok rfl not_false not_false (not_or.2 ⟨not_not.2 hk, hv.not_ge⟩)

theorem execW64Dec_statusCauses (h : Answers (execW64Dec code s) s r) :
    StatusCauses r (code.kind = .absent ∨ code.kind = .blank) False False := by
  obtain ⟨hk, e⟩ | ⟨hk, e⟩ := execW64Dec_cases code s
  · obtain rfl := answers_absent_iff.1 (e ▸ h)
    exact .of_absent hk not_false not_false
  · obtain rfl := answers_ok_iff.1 (e ▸ h)
    exact .of_ok rfl (by obtain hk | hk := hk <;> simp [hk]) not_false not_false

end

/-- Settles O31: the causes of each operation, constructor by constructor. -/
theorem statusesByOperation : Obligations.StatusesByOperation := by
  intro i s t r hi hr
  have answers : Answers (exec i s) s r := ⟨t, hi, hr⟩
  cases i with
  | w26Enc id =>
    obtain ⟨ha, hl, hm, hle⟩ := execW26Enc_statusCauses answers
    simp [ha, hl, hm, hle]
  | w64Enc id =>
    obtain ⟨ha, hl, hm, hle⟩ := execW64Enc_statusCauses answers
    simp [ha, hl, hm, hle]
  | w26Dec code =>
    obtain ⟨ha, hl, hm, hle⟩ := execW26Dec_statusCauses answers
    simp [ha, hl, hm, hle]
  | w26Rdfc code | w26Rdid code | w26Rdpay code =>
    obtain ⟨ha, hl, hm, hle⟩ := readField_statusCauses answers
    simp [ha, hl, hm, hle]
  | w64Dec code =>
    obtain ⟨ha, hl, hm, hle⟩ := execW64Dec_statusCauses answers
    simp [ha, hl, hm, hle]
  | reserved5 | reserved6 | reserved7 | reservedA | reservedB | reservedC | reservedD | reservedE | reservedF =>
    cases hi

/-! The frame of a command (R186). -/

/-- The second half of `W26.ENC` appends its response, empties the channel, and writes PHASE and LATCH (R46, R100). -/
theorem coreTurn_frame_of_answer {s t : State} {a : DigestAnswer} (hp : s.phase = .waitDigest)
    (ha : s.dans = some a) (h : coreTurn s = .next t) :
    ∃ r : Response, t = { s with
      phase := t.phase
      latch := t.latch
      fresh := t.fresh
      rspPort := s.rspPort ++ [r]
      dreq := none
      dans := none } := by
  cases a with
  | ok d =>
    rw [coreTurn_of_digest hp ha, completeW26Enc_eq] at h
    cases h
    exact ⟨_, rfl⟩
  | fail =>
    rw [coreTurn_of_unavailable hp ha, failW26Enc_eq] at h
    cases h
    exact ⟨_, rfl⟩

/-- Settles O34: a command ends in a primitive's next state, and only `W26.ENC` waits for a digest. -/
theorem commandFrame : Obligations.CommandFrame := by
  refine ⟨fun i s t hs h => ?_, fun s t a => coreTurn_frame_of_answer⟩
  obtain ⟨r, ht⟩ | ⟨r, ht⟩ | ⟨q, ht⟩ := exec_next_cases h
  · exact .inl ⟨r, by rw [ht, ← hs]⟩
  · exact .inl ⟨r, ht⟩
  · exact .inr (exec_awaits h (by rw [ht]) (by rw [hs]; decide))

end Sys2Proof.Machine
end

section
/-!
PROOFS of the family 70_reset_and_hazards.md: the wait of the idle core (R200, R204) and the state after reset with the
tables ALPHA and REV (R69, R70, R200).
-/
namespace Sys2Proof.Machine

/-- The turn of the idle core with no command at the port: it waits (R204). -/
theorem coreTurn_of_no_command {s : State} (hp : s.phase = .idle) (hc : s.cmdPort = []) : coreTurn s = .next s := by
  simp only [coreTurn, hp, hc]

/-! REV on each class of group values (R70). -/

theorem rev_digit {k : Nat} (h : k < 10) : rev (BitVec.ofNat 6 (16 + k)) = BitVec.ofNat 8 (0x30 + k) := by
  decide +revert

theorem rev_letter {k : Nat} (h : k < 26) : rev (BitVec.ofNat 6 (26 + k)) = BitVec.ofNat 8 (0x41 + k) := by
  decide +revert

theorem rev_other {g : Group} (hs : g ≠ 0#6) (hc : g.toNat < 16 ∨ 51 < g.toNat) : rev g = 0x3F#8 := by
  rw [rev, if_neg hs, if_neg (by omega), if_neg (by omega)]

/-- Settles O47: the fields of the reset state, the wait of the idle core, and the two tables class by class. -/
theorem resetStateIsAsGiven : Obligations.ResetStateIsAsGiven :=
  ⟨rfl, rfl, rfl, rfl, rfl, rfl, coreTurn_of_no_command rfl rfl, rfl,
    fun _ hk => ⟨alpha_digit hk, rev_digit hk⟩, fun _ hk => ⟨alpha_letter hk, rev_letter hk⟩,
    fun _ hs hd hl => alpha_other (fun h => hs (BitVec.eq_of_toNat_eq h)) hd hl, rfl, fun _ => rev_other⟩

end Sys2Proof.Machine
end

section
/-!
PROOFS: the two directions of the codec (30_encoding.md R60 to R62, R79). A slice of an encoded word is the field that was
put there; the fields of a word, put side by side again, are the word; and what a word decodes to follows from its opcode
and its length.
-/
namespace Sys2Proof

/-! An encoded word, read back field by field (R60). -/

theorem tenSlots_eq {t : Str} (h : t.length = 10) :
    [t.getD 0 0, t.getD 1 0, t.getD 2 0, t.getD 3 0, t.getD 4 0, t.getD 5 0, t.getD 6 0, t.getD 7 0, t.getD 8 0,
      t.getD 9 0] = t := by
  match t, h with
  | [_, _, _, _, _, _, _, _, _, _], _ => rfl

theorem getLsbD_eq_extractLsb' {n : Nat} (v : BitVec n) (k : Nat) : v.getLsbD k = (v.extractLsb' k 1).getLsbD 0 := by
  simp

theorem decodeId_encodeId (op : BitVec 4) {id : IdOperand} (hw : id.wf = true) :
    decodeId (encodeId op id).bits = id := by
  simp (disch := omega) only [decodeId, encodeId, BitVec.setWidth_eq, getLsbD_eq_extractLsb' _ 88,
    extractLsb'_append_of_le, extractLsb'_append_zero, Nat.reduceSub, tenSlots_eq (IdOperand.ch_length hw)]
  simp

theorem decodeCode_encodeCode (op : BitVec 4) (code : CodeOperand) : decodeCode (encodeCode op code).bits = code := by
  simp (disch := omega) only [decodeCode, encodeCode, BitVec.setWidth_eq, extractLsb'_append_of_le,
    extractLsb'_append_zero, Nat.reduceSub, Kind.ofBits_toBits]

theorem decode_encodeId (op : BitVec 4) {mk : IdOperand → Instr} {id : IdOperand}
    (hmap : ∀ w, decodeOp w (op.getLsbD 3) (op.extractLsb' 0 3) = formatI w mk) (hw : id.wf = true) :
    decode (encodeId op id) = .ok (mk id) := by
  rw [decode_of_op _ op (encodeId_op op id) (by simp), hmap, formatI, if_pos (encodeId_len op id)]
  exact congrArg (fun id => Except.ok (mk id)) (decodeId_encodeId op hw)

theorem decode_encodeCode (op : BitVec 4) {mk : CodeOperand → Instr} (code : CodeOperand)
    (hmap : ∀ w, decodeOp w (op.getLsbD 3) (op.extractLsb' 0 3) = formatC w mk) :
    decode (encodeCode op code) = .ok (mk code) := by
  rw [decode_of_op _ op (encodeCode_op op code) (by simp), hmap, formatC, if_pos (encodeCode_len op code)]
  exact congrArg (fun code => Except.ok (mk code)) (decodeCode_encodeCode op code)

/-- Settles O1: an instruction of a format by its fields, a reserved one by its opcode alone. -/
theorem encodeThenDecodeGivesBack : Obligations.EncodeThenDecodeGivesBack := by
  intro i hw
  cases i with
  | w26Enc id => exact decode_encodeId 0x0#4 (fun _ => rfl) hw
  | w64Enc id => exact decode_encodeId 0x8#4 (fun _ => rfl) hw
  | w26Dec code => exact decode_encodeCode 0x1#4 code fun _ => rfl
  | w26Rdfc code => exact decode_encodeCode 0x2#4 code fun _ => rfl
  | w26Rdid code => exact decode_encodeCode 0x3#4 code fun _ => rfl
  | w26Rdpay code => exact decode_encodeCode 0x4#4 code fun _ => rfl
  | w64Dec code => exact decode_encodeCode 0x9#4 code fun _ => rfl
  | reserved5 | reserved6 | reserved7 | reservedA | reservedB | reservedC | reservedD | reservedE | reservedF => rfl

/-! The fields of a word, encoded again (R60). -/

theorem encodeId_decodeId (v : BitVec 93) : encodeId (v.extractLsb' 89 4) (decodeId v) = ⟨93, v⟩ := by
  have present : BitVec.ofBool (v.getLsbD 88) = v.extractLsb' 88 1 := by
    ext i hi
    obtain rfl : i = 0 := by omega
    simp
  simp (disch := omega) only [encodeId, decodeId, List.getD_cons_zero, List.getD_cons_succ, present,
    BitVec.extractLsb'_append_extractLsb'_eq_extractLsb']
  rw [BitVec.setWidth_eq, BitVec.extractLsb'_eq_self]

theorem encodeCode_decodeCode (v : BitVec 70) : encodeCode (v.extractLsb' 66 4) (decodeCode v) = ⟨70, v⟩ := by
  simp (disch := omega) only [encodeCode, decodeCode, Kind.toBits_ofBits,
    BitVec.extractLsb'_append_extractLsb'_eq_extractLsb']
  rw [BitVec.setWidth_eq, BitVec.extractLsb'_eq_self]

/-- What the opcode map answers: a well-formed instruction, reserved, or of the fields of format I or format C. -/
theorem decodeOp_cases {w : CmdWord} {family : Bool} {fn : BitVec 3} {i : Instr} (h : decodeOp w family fn = .ok i) :
    i.wf = true ∧
      (i.isReserved = true ∨
       (w.len = 93 ∧ encode i = encodeId (BitVec.ofBool family ++ fn) (decodeId (w.bits.setWidth 93))) ∨
       (w.len = 70 ∧ encode i = encodeCode (BitVec.ofBool family ++ fn) (decodeCode (w.bits.setWidth 70)))) := by
  unfold decodeOp at h
  split at h
  case h_1 | h_9 => obtain ⟨hl, rfl⟩ := formatI_eq_ok h; exact ⟨rfl, .inr (.inl ⟨hl, rfl⟩)⟩
  case h_2 | h_3 | h_4 | h_5 | h_10 => obtain ⟨hl, rfl⟩ := formatC_eq_ok h; exact ⟨rfl, .inr (.inr ⟨hl, rfl⟩)⟩
  all_goals cases h; exact ⟨rfl, .inl rfl⟩

theorem decode_cases {w : CmdWord} {i : Instr} (h : decode w = .ok i) :
    i.wf = true ∧
      (i.isReserved = true ∨
       (w.len = 93 ∧ encode i = encodeId w.op (decodeId (w.bits.setWidth 93))) ∨
       (w.len = 70 ∧ encode i = encodeCode w.op (decodeCode (w.bits.setWidth 70)))) := by
  unfold decode at h
  split at h
  next => cases h
  next =>
    have cases := decodeOp_cases h
    rwa [family_append_fn w.op] at cases

/-- Settles O2: the slices of the fields and the opcode, side by side, are the whole word. -/
theorem decodeThenEncodeGivesBack : Obligations.DecodeThenEncodeGivesBack := by
  rintro ⟨len, v⟩ i h hr
  obtain ⟨-, hres | ⟨rfl, henc⟩ | ⟨rfl, henc⟩⟩ := decode_cases h
  · rw [hr] at hres; cases hres
  · rw [henc, BitVec.setWidth_eq]; exact encodeId_decodeId v
  · rw [henc, BitVec.setWidth_eq]; exact encodeCode_decodeCode v

/-! Which format a word is read as (R61, R62, R78). -/

/-- A word with one of the two opcodes of format I is read as format I. -/
theorem decode_eq_formatI {w : CmdWord} (hl : 4 ≤ w.len) (hop : w.op ∈ [0x0#4, 0x8#4]) :
    ∃ mk, decode w = formatI w mk := by
  obtain h | h := List.mem_pair.1 hop
  · exact ⟨.w26Enc, decode_of_op w _ h hl⟩
  · exact ⟨.w64Enc, decode_of_op w _ h hl⟩

/-- A word with one of the five opcodes of format C is read as format C. -/
theorem decode_eq_formatC {w : CmdWord} (hl : 4 ≤ w.len) (hop : w.op ∈ [0x1#4, 0x2#4, 0x3#4, 0x4#4, 0x9#4]) :
    ∃ mk, decode w = formatC w mk := by
  simp only [List.mem_cons, List.not_mem_nil, or_false] at hop
  obtain h | h | h | h | h := hop
  · exact ⟨.w26Dec, decode_of_op w _ h hl⟩
  · exact ⟨.w26Rdfc, decode_of_op w _ h hl⟩
  · exact ⟨.w26Rdid, decode_of_op w _ h hl⟩
  · exact ⟨.w26Rdpay, decode_of_op w _ h hl⟩
  · exact ⟨.w64Dec, decode_of_op w _ h hl⟩

/-- A word with one of the nine reserved opcodes is read at any length (log entry 2). -/
theorem decode_reserved {w : CmdWord} (hl : 4 ≤ w.len)
    (hop : w.op ∈ [0x5#4, 0x6#4, 0x7#4, 0xA#4, 0xB#4, 0xC#4, 0xD#4, 0xE#4, 0xF#4]) : ∃ i, decode w = .ok i := by
  simp only [List.mem_cons, List.not_mem_nil, or_false] at hop
  obtain h | h | h | h | h | h | h | h | h := hop <;> exact ⟨_, decode_of_op w _ h hl⟩

theorem decode_tooShort {w : CmdWord} (h : w.len < 4) : decode w = .error (.tooShort w.len) := if_pos h

/-- A decoded instruction is reserved exactly as the opcode of its word is. -/
theorem isReserved_of_decode {w : CmdWord} {i : Instr} (h : decode w = .ok i) :
    i.isReserved = true ↔ w.op ∈ [0x5#4, 0x6#4, 0x7#4, 0xA#4, 0xB#4, 0xC#4, 0xD#4, 0xE#4, 0xF#4] := by
  rw [Machine.isReserved_iff_opcode, (decode_eq_ok h).1]

/-- A word that decodes and whose opcode is defined is a well-formed operation of that opcode. -/
theorem operation_of_decode {w : CmdWord} {i : Instr} (h : decode w = .ok i)
    (hop : w.op ∉ [0x5#4, 0x6#4, 0x7#4, 0xA#4, 0xB#4, 0xC#4, 0xD#4, 0xE#4, 0xF#4]) :
    ∃ i, decode w = .ok i ∧ i.wf = true ∧ i.isReserved = false ∧ i.opcode = w.op :=
  ⟨i, h, (decode_cases h).1, Bool.eq_false_iff.2 fun hr => hop ((isReserved_of_decode h).1 hr), (decode_eq_ok h).1⟩

/-- The opcodes of a format are defined. -/
theorem not_mem_reserved_of_mem {op : BitVec 4} :
    op ∈ [0x0#4, 0x8#4] ∨ op ∈ [0x1#4, 0x2#4, 0x3#4, 0x4#4, 0x9#4] →
      op ∉ [0x5#4, 0x6#4, 0x7#4, 0xA#4, 0xB#4, 0xC#4, 0xD#4, 0xE#4, 0xF#4] := by
  revert op; decide

/-- Settles O3: the opcode names the format, and the format asks for its length. -/
theorem decodeIsTotalByOpcodeAndLength : Obligations.DecodeIsTotalByOpcodeAndLength := by
  refine fun w => ⟨decode_tooShort, fun hl hop h => ?_, fun hl hop h => ?_, fun hl hop => ?_, fun hl hop h => ?_,
    fun hl hop h => ?_⟩
  · obtain ⟨mk, hd⟩ := decode_eq_formatI hl hop
    exact operation_of_decode (hd.trans (if_pos h)) (not_mem_reserved_of_mem (.inl hop))
  · obtain ⟨mk, hd⟩ := decode_eq_formatC hl hop
    exact operation_of_decode (hd.trans (if_pos h)) (not_mem_reserved_of_mem (.inr hop))
  · obtain ⟨i, hd⟩ := decode_reserved hl hop
    exact ⟨i, hd, (decode_cases hd).1, (isReserved_of_decode hd).2 hop, (decode_eq_ok hd).1⟩
  · obtain ⟨mk, hd⟩ := decode_eq_formatI hl hop
    exact hd.trans (if_neg h)
  · obtain ⟨mk, hd⟩ := decode_eq_formatC hl hop
    exact hd.trans (if_neg h)

/-- Settles O5: each word is one closed evaluation of the decoder. -/
theorem sampleWordsDecode : Obligations.SampleWordsDecode := by
  unfold Obligations.SampleWordsDecode; decide

end Sys2Proof

namespace Sys2Proof.Machine

/-- Settles O32: the refusal by `exec`, and at the port of the idle core, where such a word decodes at any length. -/
theorem reservedOpcodesAreRefused : Obligations.ReservedOpcodesAreRefused := by
  refine ⟨fun i s hi => ⟨exec_eq_refused_of_isReserved i s hi, (isReserved_iff_opcode i).1 hi⟩,
    fun w s hl hp hc hop => ?_⟩
  obtain ⟨i, hd⟩ := decode_reserved hl hop
  rw [coreTurn_of_command hp hc hd, exec_eq_refused_of_isReserved i _ ((isReserved_of_decode hd).2 hop),
    (decode_eq_ok hd).1]

end Sys2Proof.Machine
end

section
/-!
PROOFS on Wiegand26: the parity laws of an encoded frame (40_w26_encode.md section 3), the two halves of `W26.ENC` and the
fields of its answer (R100, R106, R173), the agreement of the decoder (R108), and FCID as decimal digits (R123).
-/
namespace Sys2Proof.Machine

/-! The bits of an encoded frame (R105). -/

theorem frame_getLsbD_zero (p : Payload) : (assemble (pack26 p)).getLsbD 0 = (oddPar (pack26 p)).getLsbD 0 := by
  rw [assemble_pack26, BitVec.getLsbD_append, if_pos (by decide)]

theorem frame_getLsbD_succ (p : Payload) {k : Nat} (hk : k < 24) :
    (assemble (pack26 p)).getLsbD (k + 1) = p.getLsbD k := by
  rw [assemble_pack26, BitVec.getLsbD_append, if_neg (by omega), Nat.add_sub_cancel, BitVec.getLsbD_append, if_pos hk]

theorem frame_getLsbD_top (p : Payload) : (assemble (pack26 p)).getLsbD 25 = (evenPar (pack26 p)).getLsbD 0 := by
  rw [assemble_pack26, BitVec.getLsbD_append, if_neg (by decide), BitVec.getLsbD_append, if_neg (by decide)]

/-- A single bit counts its number. -/
theorem ite_getLsbD_zero (b : BitVec 1) : (if b.getLsbD 0 = true then 1 else 0) = b.toNat := by
  revert b; decide

/-- Bits 25 to 12: the payload's upper ones, and the even-parity bit. -/
theorem frame_upper_count (p : Payload) :
    ((List.range 14).countP fun k => (assemble (pack26 p)).getLsbD (12 + k))
      = ((List.range 13).countP fun k => p.getLsbD (11 + k)) + (evenPar (pack26 p)).toNat := by
  have payload : (List.range 13).countP (fun k => (assemble (pack26 p)).getLsbD (12 + k))
      = (List.range 13).countP fun k => p.getLsbD (11 + k) := by
    refine List.countP_congr fun k hk => ?_
    have hk := List.mem_range.1 hk
    rw [show 12 + k = 11 + k + 1 by omega, frame_getLsbD_succ p (by omega)]
  rw [List.range_succ, List.countP_append, payload, List.countP_singleton, frame_getLsbD_top, ite_getLsbD_zero]

/-- Bits 11 to 0: the payload's lower ones, and the odd-parity bit. -/
theorem frame_lower_count (p : Payload) :
    ((List.range 12).countP fun k => (assemble (pack26 p)).getLsbD k)
      = ((List.range 11).countP fun k => p.getLsbD k) + (oddPar (pack26 p)).toNat := by
  have payload : (List.range 11).countP ((fun k => (assemble (pack26 p)).getLsbD k) ∘ Nat.succ)
      = (List.range 11).countP fun k => p.getLsbD k := by
    refine List.countP_congr fun k hk => ?_
    have hk := List.mem_range.1 hk
    exact iff_of_eq (congrArg (· = true) (frame_getLsbD_succ p (by omega)))
  rw [List.range_succ_eq_map, List.countP_cons, List.countP_map, payload, frame_getLsbD_zero, ite_getLsbD_zero]

/-- Settles O9: each parity bit completes the count of the payload bits below its own half. -/
theorem encodedFrameParityLaws : Obligations.EncodedFrameParityLaws := by
  intro p
  rw [frame_upper_count, frame_lower_count, evenPar_pack26_toNat, oddPar_pack26_toNat]
  omega

/-! The fields of an encoded frame (40_w26_encode.md section 2). -/

theorem frame_hex_toNat (p : Payload) :
    (slice26 (assemble (pack26 p))).hex.toNat
      = ((List.range 13).countP fun k => p.getLsbD (11 + k)) % 2 * 2 ^ 25 + p.toNat * 2
        + (1 - ((List.range 11).countP fun k => p.getLsbD k) % 2) := by
  rw [slice26_hex_toNat, assemble_pack26_toNat, evenPar_pack26_toNat, oddPar_pack26_toNat]

theorem frame_pay (p : Payload) : (slice26 (assemble (pack26 p))).pay = p := by
  have hp := p.isLt
  have ho := (oddPar (pack26 p)).isLt
  apply BitVec.eq_of_toNat_eq
  rw [slice26_pay_toNat, assemble_pack26_toNat]
  omega

/-- The facility code is the payload's upper part. -/
theorem slice26_fc_eq_pay_div (b : Frame) : (slice26 b).fc.toNat = (slice26 b).pay.toNat / 65536 := by
  rw [slice26_fc_toNat, slice26_pay_toNat]
  omega

/-- The id number is the payload's lower part. -/
theorem slice26_idn_eq_pay_mod (b : Frame) : (slice26 b).idn.toNat = (slice26 b).pay.toNat % 65536 := by
  rw [slice26_idn_toNat, slice26_pay_toNat]
  omega

/-! The two halves of `W26.ENC` (R100). -/

theorem exec_w26Enc_of_fits {id : IdOperand} (s : State) (hp : id.present = true) (h1 : 1 ≤ id.len.toNat)
    (h10 : id.len.toNat ≤ 10) :
    exec (.w26Enc id) s = .next { s with
      phase := .waitDigest
      latch := id.text
      dreq := some id.text
      dans := none } := by
  have ha := isAbsent_of_len_pos hp h1
  have ht := (isTooLong_eq_false_iff id).2 h10
  simp only [exec, execW26Enc, ha, ht]; rfl

/-- Settles O10: past the two tests the command sends its request. -/
theorem w26EncSendsTheDigestRequest : Obligations.W26EncSendsTheDigestRequest :=
  fun _ s => exec_w26Enc_of_fits s

/-- The turn of the core that consumes 20 bytes of digest. -/
theorem coreTurn_completes {s : State} {d : Digest} (hp : s.phase = .waitDigest) (ha : s.dans = some (.ok d)) :
    coreTurn s = .next { s.closeChannel with
      phase := .idle
      rspPort := s.rspPort ++ [.okFrame (slice26 (assemble (pack26 (inj24 d))))] } :=
  (coreTurn_of_digest hp ha).trans (completeW26Enc_eq d s)

/-- The turn of the core that finds the digest unavailable. -/
theorem coreTurn_faults {s : State} (hp : s.phase = .waitDigest) (ha : s.dans = some .fail) :
    coreTurn s = .next { s.closeChannel with phase := .faulted, rspPort := s.rspPort ++ [.fatalDigest] } :=
  (coreTurn_of_unavailable hp ha).trans (failW26Enc_eq s)

/-- Settles O11: the answer is the slices of the frame of the injected payload. -/
theorem w26EncAnswersFromTheDigest : Obligations.W26EncAnswersFromTheDigest := by
  intro s d hp ha
  have fc := slice26_fc_eq_pay_div (assemble (pack26 (inj24 d)))
  have idn := slice26_idn_eq_pay_mod (assemble (pack26 (inj24 d)))
  have fcid := slice26_fcid_toNat (assemble (pack26 (inj24 d)))
  rw [fc, idn] at fcid
  rw [frame_pay] at fc idn fcid
  exact ⟨_, _, inj24 d, inj24_toNat d, coreTurn_completes hp ha, rfl, frame_hex_toNat _, frame_pay _, fc, idn, fcid,
    rfl, rfl, rfl, rfl, rfl⟩

/-- Settles O12: the fault of the core's turn, and STAT in the phase that it leaves. -/
theorem w26EncFaultsWhenDigestUnavailable : Obligations.W26EncFaultsWhenDigestUnavailable :=
  fun _ hp ha => ⟨_, coreTurn_faults hp ha, rfl, rfl, rfl, State.stat_of_faulted rfl, rfl, rfl, rfl, rfl⟩

/-! The decoder on an encoded frame (R108). -/

/-- The `hex` field is a value that fits 26 bits, and VALID26 answers the frame it was cut from. -/
theorem valid26_hex (b : Frame) : CodeOperand.valid26 ⟨.value, (slice26 b).hex.setWidth 64⟩ = some b :=
  (valid26_eq_some_iff _ b).2 ⟨rfl, by rw [BitVec.toNat_setWidth_of_le (by decide), slice26_hex_toNat]⟩

/-- Settles O13: the decoder slices the frame that the encoder sliced. -/
theorem decodeOfEncodedFrameAgrees : Obligations.DecodeOfEncodedFrameAgrees :=
  fun _ u _ hp ha => ⟨_, _, coreTurn_completes hp ha, rfl, exec_w26Dec_of_valid26 u (valid26_hex _)⟩

/-! FCID as decimal digits (R123). -/

/-- Up to five decimal digits, filled up with zeros, are five. -/
theorem padded_digits_length {n : Nat} (h : n < 10 ^ 5) :
    (Nat.digits 10 n ++ List.replicate (5 - (Nat.digits 10 n).length) 0).length = 5 := by
  have := (Nat.digits_length_le_iff (by decide) n).2 h
  rw [List.length_append, List.length_replicate]
  omega

/-- Settles O16: the id number fills the five low digits, so the facility code stands at the weight 100000. -/
theorem fcidIsTheDecimalConcatenation : Obligations.FcidIsTheDecimalConcatenation := by
  refine ⟨fun fc idn => ?_, fun fc fc' idn idn' h => ?_⟩
  · have hfc := fc.isLt
    have hidn := idn.isLt
    have five := padded_digits_length (n := idn.toNat) (by omega)
    refine ⟨fcidOf_toNat fc idn, ?_, five, by rw [fcidOf_toNat]; omega⟩
    rw [Nat.ofDigits_append, five, Nat.ofDigits_append_replicate_zero, Nat.ofDigits_digits, Nat.ofDigits_digits,
      fcidOf_toNat]
    omega
  · have hidn := idn.isLt
    have hidn' := idn'.isLt
    have number := congrArg BitVec.toNat h
    rw [fcidOf_toNat, fcidOf_toNat] at number
    exact ⟨BitVec.eq_of_toNat_eq (by omega), BitVec.eq_of_toNat_eq (by omega)⟩

end Sys2Proof.Machine
end

section
/-!
PROOFS on the sequencer (10_state.md, 20_memory.md section 4, 70_reset_and_hazards.md): every step that answers is one of
the effects listed in `TurnEffect` and `StepEffect`, with the next state written out; each safety statement and the
machine's invariant is a case analysis of these two.
-/
namespace Sys2Proof.Machine

/-! Every response that the machine emits is well formed (R24, R69, R128, R144, R158). -/

theorem okFrame_slice26_wf (b : Frame) : (Response.okFrame (slice26 b)).Wf :=
  ⟨by rw [slice26_hex_toNat]; exact b.isLt, by rw [slice26_pay_toNat, slice26_hex_toNat], slice26_fc_eq_pay_div b,
    slice26_idn_eq_pay_mod b, slice26_fcid_toNat b⟩

theorem alpha_isEncodedGroup (c : Byte) : isEncodedGroup (alpha c).toNat := by
  unfold alpha isEncodedGroup
  split
  · exact .inl rfl
  split
  · right; left; rw [BitVec.toNat_ofNat]; omega
  split
  · right; left; rw [BitVec.toNat_ofNat]; omega
  · exact .inr (.inr rfl)

theorem okCode64_wf {t : Str} (h : t.length ≤ 10) : (Response.okCode64 (pack64 ((pad10 t).map alpha))).Wf := by
  have hlen : ((pad10 t).map alpha).length = 10 := by rw [List.length_map, pad10_length h]
  refine ⟨pack64_header hlen, fun i hi => ?_⟩
  obtain ⟨c, -, hc⟩ := List.mem_map.1 (List.mem_of_getElem? (pack64_group hlen (List.mem_range.1 hi)))
  have group := congrArg BitVec.toNat hc
  rw [BitVec.toNat_ofNat] at group
  exact group ▸ alpha_isEncodedGroup c

theorem textResponse_wf (v : BitVec 64) : (textResponse v).Wf := by
  have hle := trimText_map_rev_length_le v
  refine ⟨map_rev_unpack64_length v, alignText_length hle, (tlen_toNat hle).trans_le hle, fun c hc => ?_, fun c hc => ?_⟩
  · obtain ⟨g, -, rfl⟩ := List.mem_map.1 hc
    exact rev_isDecodedChar g
  · rw [tlen_toNat hle] at hc
    exact eq_space_of_mem_drop_alignText hc

theorem errorKind_response_wf (e : ErrorKind) : e.response.Wf := by
  cases e <;> exact trivial

section
variable {res : Result} {s : State} {r r' : Response}

theorem wf_of_absent (e : res = absent s) (h : Answers res s r) : r.Wf := by
  obtain rfl := answers_absent_iff.1 (e ▸ h); exact trivial

theorem wf_of_raise {k : ErrorKind} (e : res = raise k s) (h : Answers res s r) : r.Wf := by
  obtain rfl := answers_raise_iff.1 (e ▸ h); exact errorKind_response_wf k

theorem wf_of_ok (e : res = ok r' s) (wf : r'.Wf) (h : Answers res s r) : r.Wf := by
  obtain rfl := answers_ok_iff.1 (e ▸ h); exact wf

end

theorem readField_answer_wf {f : Frame → BitVec 24} {code : CodeOperand} {s : State} {r : Response}
    (h : Answers (readField f code s) s r) : r.Wf := by
  obtain ⟨-, e⟩ | ⟨-, b, -, e⟩ := readField_cases f code s
  · exact wf_of_raise e h
  · exact wf_of_ok e trivial h

theorem exec_answer_wf {i : Instr} {s : State} {r : Response} (h : Answers (exec i s) s r) : r.Wf := by
  cases i with
  | w26Enc id =>
    obtain ⟨-, e⟩ | ⟨-, -, e⟩ | ⟨-, -, -, e⟩ := execW26Enc_cases id s
    · exact wf_of_absent e h
    · exact wf_of_raise e h
    · rw [show exec (.w26Enc id) s = _ from e] at h
      exact absurd h (not_answers_awaitDigest _ _ _)
  | w64Enc id =>
    obtain ⟨-, e⟩ | ⟨-, -, e⟩ | ⟨-, -, hl, e⟩ := execW64Enc_cases id s
    · exact wf_of_absent e h
    · exact wf_of_raise e h
    · exact wf_of_ok e (okCode64_wf ((List.length_take_le _ _).trans hl)) h
  | w26Dec code =>
    obtain ⟨-, e⟩ | ⟨-, e⟩ | ⟨-, b, -, e⟩ := execW26Dec_cases code s
    · exact wf_of_absent e h
    · exact wf_of_raise e h
    · exact wf_of_ok e (okFrame_slice26_wf b) h
  | w64Dec code =>
    obtain ⟨-, e⟩ | ⟨-, e⟩ := execW64Dec_cases code s
    · exact wf_of_absent e h
    · exact wf_of_ok e (textResponse_wf _) h
  | w26Rdfc code | w26Rdid code | w26Rdpay code => exact readField_answer_wf h
  | reserved5 | reserved6 | reserved7 | reservedA | reservedB | reservedC | reservedD | reservedE | reservedF =>
    obtain ⟨_, e, -⟩ := h; cases e

/-! The effects of a turn of the core and of a step. -/

/-- The next states of a turn of the core (R21, R100, R173, R204). -/
inductive TurnEffect (s : State) : State → Prop
  | wait : TurnEffect s s
  | answer {w rest r} (idle : s.phase = .idle) (port : s.cmdPort = w :: rest) (wf : r.Wf) :
    TurnEffect s { s with cmdPort := rest, rspPort := s.rspPort ++ [r] }
  | request {w rest id} (idle : s.phase = .idle) (port : s.cmdPort = w :: rest) (dec : decode w = .ok (.w26Enc id))
    (present : id.present = true) (pos : 1 ≤ id.len.toNat) (short : id.len.toNat ≤ 10) :
    TurnEffect s { s with
      cmdPort := rest, phase := .waitDigest, latch := id.text, dreq := some id.text, dans := none }
  | complete {d} (waiting : s.phase = .waitDigest) (ans : s.dans = some (.ok d)) :
    TurnEffect s { s.closeChannel with
      phase := .idle
      rspPort := s.rspPort ++ [.okFrame (slice26 (assemble (pack26 (inj24 d))))] }
  | fault (waiting : s.phase = .waitDigest) (ans : s.dans = some .fail) :
    TurnEffect s { s.closeChannel with phase := .faulted, rspPort := s.rspPort ++ [.fatalDigest] }

theorem turnEffect_of_coreTurn {s t : State} (h : coreTurn s = .next t) : TurnEffect s t := by
  obtain rfl | ⟨hp, w, rest, i, hc, hd, hx⟩ | ⟨hp, d, ha, hx⟩ | ⟨hp, ha, hx⟩ := coreTurn_cases h
  · exact .wait
  · obtain ⟨r, ht⟩ | ⟨id, rfl, h1, h2, h3, ht⟩ := commandFrame.1 i _ t (by exact hp) hx
    · rw [ht]; exact .answer hp hc (exec_answer_wf ⟨t, hx, by rw [ht]⟩)
    · rw [ht]; exact .request hp hc hd h1 h2 h3
  · rw [completeW26Enc_eq] at hx; cases hx; exact .complete hp ha
  · rw [failW26Enc_eq] at hx; cases hx; exact .fault hp ha

/-- The next states of a step (R20): a turn of the core, or one move of the host or of the digest unit. -/
inductive StepEffect (s : State) : State → Prop
  | turn {t} (turn : s.coresTurn) (effect : TurnEffect s.popMove t) : StepEffect s t
  | present {w} (mv : s.agenda.head? = some (.present w) ∨
      ∃ f x i, s.agenda.head? = some (.call f x) ∧ hostCall f x = some i ∧ w = encode i) :
    StepEffect s (s.popMove.present w)
  | read (mv : s.agenda.head? = some .readResponse) : StepEffect s s.popMove.readResponse
  | reset (mv : s.agenda.head? = some .assertReset) : StepEffect s s.popMove.assertReset
  | discarded (mv : s.agenda.head? = some .digestOk ∨ s.agenda.head? = some .digestFail) : StepEffect s s.popMove
  | arrives {q a} (mv : s.agenda.head? = some .digestOk ∨ s.agenda.head? = some .digestFail) (req : s.dreq = some q)
    (waiting : s.phase = .waitDigest) (ans : a = .ok (Config.digest q) ∨ a = .fail) :
    StepEffect s { s.popMove with dans := some a }

theorem stepEffect_of_step {s t : State} (h : step s = .next t) : StepEffect s t := by
  obtain ⟨hturn, hcore⟩ | ⟨m, rest, ha, hm, hmove⟩ := step_cases h
  · exact .turn hturn (turnEffect_of_coreTurn hcore)
  · have mv : s.agenda.head? = some m := by rw [ha]; rfl
    have pop : { s with agenda := rest } = s.popMove := by rw [State.popMove, ha]; rfl
    rw [pop] at hmove
    cases m with
    | core => contradiction
    | present w => cases hmove; exact .present (.inl mv)
    | call f x =>
      simp only [move, callOp] at hmove
      split at hmove
      next => cases hmove
      next i hi => cases hmove; exact .present (.inr ⟨f, x, i, mv, hi, rfl⟩)
    | readResponse => cases hmove; exact .read mv
    | assertReset => cases hmove; exact .reset mv
    | digestOk =>
      cases hmove
      obtain e | ⟨q, hq, hp, -, e⟩ := s.popMove.digestOk_cases
      · rw [e]; exact .discarded (.inl mv)
      · rw [e]; exact .arrives (.inl mv) hq hp (.inl rfl)
    | digestFail =>
      cases hmove
      obtain e | ⟨q, hq, hp, -, e⟩ := s.popMove.digestFail_cases
      · rw [e]; exact .discarded (.inr mv)
      · rw [e]; exact .arrives (.inr mv) hq hp (.inr rfl)

/-! The invariant. -/

/-- The invariant reads PHASE, LATCH, the channel and the response port only. -/
theorem State.Inv.congr {s t : State} (hs : s.Inv) (hp : t.phase = s.phase) (hl : t.latch = s.latch)
    (hq : t.dreq = s.dreq) (ha : t.dans = s.dans) (hr : ∀ r ∈ t.rspPort, r.Wf) : t.Inv := by
  obtain ⟨waiting, quiet, contract, -⟩ := hs
  rw [← hp, ← hl, ← hq] at waiting
  rw [← hp, ← hq, ← ha] at quiet
  rw [← ha, ← hl] at contract
  exact ⟨waiting, quiet, contract, hr⟩

/-- Outside WAIT_DIGEST an empty channel is all that the invariant asks of it. -/
theorem State.Inv.of_quiet {t : State} (hp : t.phase ≠ .waitDigest) (hq : t.dreq = none) (ha : t.dans = none)
    (hr : ∀ r ∈ t.rspPort, r.Wf) : t.Inv :=
  ⟨fun h => absurd h hp, fun _ => ⟨hq, ha⟩, fun _ h => (nomatch ha.symm.trans h), hr⟩

theorem forall_wf_append {l : List Response} {r : Response} (hl : ∀ r ∈ l, r.Wf) (hr : r.Wf) :
    ∀ r' ∈ l ++ [r], r'.Wf :=
  List.forall_mem_append.2 ⟨hl, List.forall_mem_singleton.2 hr⟩

theorem turnEffect_keeps_inv {s t : State} (hs : s.Inv) (h : TurnEffect s t) : t.Inv := by
  cases h with
  | wait => exact hs
  | answer idle port wf => exact hs.congr rfl rfl rfl rfl (forall_wf_append hs.responses wf)
  | request idle port dec present pos short =>
    have hlen := IdOperand.text_length (decode_cases dec).1 short
    exact ⟨fun _ => ⟨rfl, hlen ▸ pos, hlen ▸ short⟩, fun h => absurd rfl h, (nofun), hs.responses⟩
  | complete => exact .of_quiet nofun rfl rfl (forall_wf_append hs.responses (okFrame_slice26_wf _))
  | fault => exact .of_quiet nofun rfl rfl (forall_wf_append hs.responses trivial)

/-- Settles O49: effect by effect. A request is LATCH and the text of a decoded operand, an answer is the digest of the
request, and where the channel is closed PHASE leaves WAIT_DIGEST. -/
theorem stepKeepsTheInvariant : Obligations.StepKeepsTheInvariant := by
  intro s t hs h
  have pop : s.popMove.Inv := hs.congr rfl rfl rfl rfl hs.responses
  cases stepEffect_of_step h with
  | turn _ effect => exact turnEffect_keeps_inv pop effect
  | present => exact pop.congr rfl rfl rfl rfl hs.responses
  | read => exact pop.congr rfl rfl rfl rfl fun r hr => hs.responses r (List.mem_of_mem_tail hr)
  | reset => exact .of_quiet nofun rfl rfl nofun
  | discarded => exact pop
  | arrives mv req waiting ans =>
    obtain ⟨hreq, hlen⟩ := hs.waiting waiting
    obtain rfl := Option.some.inj (req.symm.trans hreq)
    refine ⟨fun _ => ⟨req, hlen⟩, fun h => absurd waiting h, fun d hd => ?_, hs.responses⟩
    obtain rfl | rfl := ans
    · cases hd; rfl
    · cases hd

/-- Settles O48: after reset the channel and the response port are empty. -/
theorem resetMeetsTheInvariant : Obligations.ResetMeetsTheInvariant :=
  .of_quiet nofun rfl rfl nofun

end Sys2Proof.Machine
end

section
/-!
PROOFS on runs of the machine: what one step does, move by move (R20, R204), the safety statements as case analyses of the
effects of a step (10_state.md sections 2 and 7, 60_exceptions.md section 1), a whole `W26.ENC` (R205), and the count of
the commands without a response (R206).
-/
namespace Sys2Proof.Machine

/-! A step by the first move of the agenda. -/

theorem step_of_cons {s : State} {m : Move} {rest : List Move} (h : s.agenda = m :: rest) :
    step s = move m { s with agenda := rest } := by
  rw [step, h]

theorem step_of_head? {s : State} {m : Move} (h : s.agenda.head? = some m) : step s = move m s.popMove := by
  obtain ⟨rest, hcons⟩ := List.head?_eq_some_iff.1 h
  rw [step_of_cons hcons, State.popMove, hcons, List.tail_cons]

/-- The turn of the core with nothing to consume and nothing that may be accepted: it waits (R173, R204). -/
theorem coreTurn_of_busy {s : State} (h : (s.phase = .waitDigest ∧ s.dans = none) ∨ s.phase = .faulted) :
    coreTurn s = .next s := by
  obtain ⟨hp, hd⟩ | hp := h
  · simp only [coreTurn, hp, hd]
  · simp only [coreTurn, hp]

theorem decode_tableWord {nbits w : Nat} {i : Instr} (h : decodeTableWord nbits w = some i) :
    decode (tableWord nbits w) = .ok i := by
  unfold decodeTableWord at h
  cases hd : decode (tableWord nbits w) with
  | error r => rw [hd] at h; cases h
  | ok j => rw [hd] at h; cases h; rfl

/-- Settles O37: the core's turn runs the command at the port, which `withFetchWord` puts there. -/
theorem stepRunsTheDecodedCommand : Obligations.StepRunsTheDecodedCommand := by
  refine ⟨fun s w rest i hp hc hd hturn => ?_, fun s nbits w i h => ?_⟩
  · rw [step_of_coresTurn s hturn, coreTurn_of_command (w := w) (by exact hp) (by rw [hc]; rfl) hd, hc, List.tail_cons]
  · rw [step_of_coresTurn _ (.inr rfl), coreTurn_of_command rfl rfl (decode_tableWord h)]; rfl

/-- Settles O38: a busy core waits. -/
theorem commandIsHeldWhileBusy : Obligations.CommandIsHeldWhileBusy :=
  fun s hturn hbusy => (step_of_coresTurn s hturn).trans (coreTurn_of_busy hbusy)

/-- Settles O46: the step is the reset, whose fields are written out. -/
theorem resetMoveClearsEverything : Obligations.ResetMoveClearsEverything :=
  fun _ _ h => ⟨_, step_of_cons h, rfl, State.stat_of_idle rfl, rfl, rfl, rfl, rfl, rfl⟩

/-! The digest unit's moves (R25, R46, R207). -/

theorem State.digestOk_arrives {s : State} {q : Str} (hq : s.dreq = some q) (hp : s.phase = .waitDigest)
    (hd : s.dans = none) : s.digestOk = { s with dans := some (.ok (Config.digest q)) } := by
  simp only [State.digestOk, hq, s.answer_arrives _ hp hd]

theorem State.digestFail_arrives {s : State} {q : Str} (hq : s.dreq = some q) (hp : s.phase = .waitDigest)
    (hd : s.dans = none) : s.digestFail = { s with dans := some .fail } := by
  simp only [State.digestFail, hq, s.answer_arrives _ hp hd]

/-- Without a wait, without a request, or behind another answer, the digest unit's moves change nothing. -/
theorem State.digest_discarded {s : State} (h : s.phase ≠ .waitDigest ∨ s.dans ≠ none ∨ s.dreq = none) :
    s.digestOk = s ∧ s.digestFail = s := by
  constructor
  · obtain e | ⟨q, hq, hp, hd, -⟩ := s.digestOk_cases
    · exact e
    · simp [hq, hp, hd] at h
  · obtain e | ⟨q, hq, hp, hd, -⟩ := s.digestFail_cases
    · exact e
    · simp [hq, hp, hd] at h

theorem step_of_discarded_digest {s : State} {rest : List Move}
    (h : s.phase ≠ .waitDigest ∨ s.dans ≠ none ∨ s.dreq = none)
    (hm : s.agenda = .digestOk :: rest ∨ s.agenda = .digestFail :: rest) :
    step s = .next { s with agenda := rest } := by
  obtain ⟨hok, hfail⟩ := State.digest_discarded (s := { s with agenda := rest }) h
  obtain hm | hm := hm
  · exact (step_of_cons hm).trans (congrArg _ hok)
  · exact (step_of_cons hm).trans (congrArg _ hfail)

theorem step_digestOk_arrives {s : State} {q : Str} {rest : List Move} (hm : s.agenda = .digestOk :: rest)
    (hq : s.dreq = some q) (hp : s.phase = .waitDigest) (hd : s.dans = none) :
    step s = .next { s with agenda := rest, dans := some (.ok (Config.digest q)) } :=
  (step_of_cons hm).trans (congrArg _ (State.digestOk_arrives (s := { s with agenda := rest }) hq hp hd))

theorem step_digestFail_arrives {s : State} {q : Str} {rest : List Move} (hm : s.agenda = .digestFail :: rest)
    (hq : s.dreq = some q) (hp : s.phase = .waitDigest) (hd : s.dans = none) :
    step s = .next { s with agenda := rest, dans := some .fail } :=
  (step_of_cons hm).trans (congrArg _ (State.digestFail_arrives (s := { s with agenda := rest }) hq hp hd))

/-- Settles O44: the invariant makes LATCH the request; all other answers are discarded. -/
theorem digestUnitAnswersTheRequest : Obligations.DigestUnitAnswersTheRequest :=
  fun _ _ => ⟨fun hs hp hd hm => step_digestOk_arrives hm (hs.waiting hp).1 hp hd,
    fun hs hp hd hm => step_digestFail_arrives hm (hs.waiting hp).1 hp hd,
    fun hp => step_of_discarded_digest (.inl hp), fun h => step_of_discarded_digest (.inr h)⟩

/-! Safety, effect by effect. -/

/-- Settles O40: of all effects four write PHASE. -/
theorem phaseChangesOnlyAsListed : Obligations.PhaseChangesOnlyAsListed := by
  intro s t h hne
  cases stepEffect_of_step h with
  | turn turn effect =>
    right
    refine ⟨turn, ?_⟩
    cases effect with
    | wait => exact absurd rfl hne
    | answer => exact absurd rfl hne
    | request idle port dec present pos short => exact .inl ⟨idle, rfl, _, _, _, port, dec, present, pos, short⟩
    | complete waiting ans => exact .inr (.inl ⟨waiting, rfl, _, ans⟩)
    | fault waiting ans => exact .inr (.inr ⟨waiting, rfl, ans⟩)
  | reset mv => exact .inl ⟨mv, rfl⟩
  | present | read | discarded | arrives => exact absurd rfl hne

/-- Settles O41: no turn of a faulted core accepts or emits, and no move but a reset writes PHASE. -/
theorem faultedUntilReset : Obligations.FaultedUntilReset := by
  intro s t hf hreset h
  cases stepEffect_of_step h with
  | turn _ effect =>
    cases effect with
    | wait => exact ⟨hf, ⟨[], (List.append_nil _).symm⟩, .inl rfl⟩
    | answer idle | request idle => exact nomatch hf.symm.trans idle
    | complete waiting | fault waiting => exact nomatch hf.symm.trans waiting
  | present => exact ⟨hf, ⟨_, rfl⟩, .inl rfl⟩
  | read mv => exact ⟨hf, ⟨[], (List.append_nil _).symm⟩, .inr ⟨mv, rfl⟩⟩
  | reset mv => exact absurd mv hreset
  | discarded => exact ⟨hf, ⟨[], (List.append_nil _).symm⟩, .inl rfl⟩
  | arrives _ _ waiting => exact nomatch hf.symm.trans waiting

/-- Settles O42: the host appends, the idle core takes the first, a reset clears. -/
theorem commandsAreTakenInOrder : Obligations.CommandsAreTakenInOrder := by
  intro s t h
  cases stepEffect_of_step h with
  | turn turn effect =>
    cases effect with
    | wait | complete | fault => exact .inl rfl
    | answer idle port | request idle port => exact .inr (.inr (.inl ⟨turn, idle, _, port⟩))
  | present mv => exact .inr (.inl ⟨_, rfl, mv⟩)
  | read | discarded | arrives => exact .inl rfl
  | reset mv => exact .inr (.inr (.inr ⟨mv, rfl⟩))

/-- Settles O43: the core appends, the host takes the first, a reset clears. -/
theorem responsesComeInOrder : Obligations.ResponsesComeInOrder := by
  intro s t h
  cases stepEffect_of_step h with
  | turn turn effect =>
    cases effect with
    | wait | request => exact .inl rfl
    | answer | complete | fault => exact .inr (.inl ⟨turn, _, rfl⟩)
  | present | discarded | arrives => exact .inl rfl
  | read mv => exact .inr (.inr (.inl ⟨mv, rfl⟩))
  | reset mv => exact .inr (.inr (.inr ⟨mv, rfl⟩))

/-- Settles O45: what could end the wait is an answer on the channel or a move that does not come. -/
theorem hungRunStaysHung : Obligations.HungRunStaysHung := by
  intro s t ⟨hp, hd, hm⟩ h
  have pop : s.popMove.hung := ⟨hp, hd, fun m h => hm m (List.mem_of_mem_tail h)⟩
  have never {m : Move} (h : s.agenda.head? = some m) : m ≠ .digestOk ∧ m ≠ .digestFail ∧ m ≠ .assertReset :=
    hm m (List.mem_of_head? h)
  cases stepEffect_of_step h with
  | turn _ effect =>
    cases effect with
    | wait => exact ⟨pop, .inl rfl⟩
    | answer idle | request idle => exact nomatch hp.symm.trans idle
    | complete _ ans | fault _ ans => exact nomatch hd.symm.trans ans
  | present => exact ⟨pop, .inl rfl⟩
  | read mv => exact ⟨pop, .inr ⟨mv, rfl⟩⟩
  | reset mv => exact absurd rfl (never mv).2.2
  | discarded => exact ⟨pop, .inl rfl⟩
  | arrives mv =>
    obtain mv | mv := mv
    · exact absurd rfl (never mv).1
    · exact absurd rfl (never mv).2.1

/-! A whole `W26.ENC` (R205). -/

theorem run_succ_of_step {s t : State} (k : Nat) (h : step s = .next t) :
    Host.Core.run core (k + 1) s = Host.Core.run core k t := by
  simp only [Host.Core.run, show core.step s = .next t from h]

theorem step_accepts_w26Enc {s : State} {id : IdOperand} {rest : List Move} (hm : s.agenda = .core :: rest)
    (hidle : s.phase = .idle) (hc : s.cmdPort = [encode (.w26Enc id)]) (hw : id.wf = true) (hp : id.present = true)
    (h1 : 1 ≤ id.len.toNat) (h10 : id.len.toNat ≤ 10) :
    step s = .next { s with
      agenda := rest, cmdPort := [], phase := .waitDigest, latch := id.text, dreq := some id.text, dans := none } := by
  have port : s.cmdPort.head? = some (encode (.w26Enc id)) := by rw [hc]; rfl
  have turn := coreTurn_of_command (s := { s with agenda := rest }) hidle port (encodeThenDecodeGivesBack _ hw)
  rw [step_of_cons hm, move, turn, exec_w26Enc_of_fits _ hp h1 h10, hc, List.tail_cons]

theorem step_completes_w26Enc {s : State} {d : Digest} {rest : List Move} (hm : s.agenda = .core :: rest)
    (hp : s.phase = .waitDigest) (ha : s.dans = some (.ok d)) :
    step s = .next { s.closeChannel with
      agenda := rest
      phase := .idle
      rspPort := s.rspPort ++ [.okFrame (slice26 (assemble (pack26 (inj24 d))))] } :=
  (step_of_cons hm).trans (coreTurn_completes (s := { s with agenda := rest }) hp ha)

/-- Settles O14: the four steps one after the other. -/
theorem w26EncCompletesInTwoCoreTurns : Obligations.W26EncCompletesInTwoCoreTurns := by
  intro s id rest hw hp h1 h10 hidle hport hagenda
  have port : s.cmdPort ++ [encode (.w26Enc id)] = [encode (.w26Enc id)] := by rw [hport, List.nil_append]
  have run := calc
    Host.Core.run core 4 s
      = Host.Core.run core 3 _ := run_succ_of_step 3 (step_of_cons hagenda)
    _ = Host.Core.run core 2 _ := run_succ_of_step 2 (step_accepts_w26Enc rfl hidle port hw hp h1 h10)
    _ = Host.Core.run core 1 _ := run_succ_of_step 1 (step_digestOk_arrives rfl rfl rfl rfl)
    _ = Host.Core.run core 0 _ := run_succ_of_step 0 (step_completes_w26Enc rfl rfl rfl)
  refine ⟨_, _, run, rfl, ?_, rfl, rfl, rfl⟩
  rw [frame_pay]
  exact inj24_toNat _

/-! The commands without a response (R206). -/

/-- A turn of the core that takes a command off the count emits its response. -/
theorem turnEffect_outstanding {s t : State} (h : TurnEffect s t) :
    t.outstanding + t.rspPort.length = s.outstanding + s.rspPort.length := by
  cases h with
  | wait => rfl
  | answer idle port => simp [State.outstanding, idle, port]; omega
  | request idle port => simp [State.outstanding, idle, port]
  | complete waiting | fault waiting => simp [State.outstanding, waiting]; omega

theorem digestOk_outstanding (s : State) : s.digestOk.outstanding = s.outstanding := by
  obtain ⟨hp, -, hc, -, -, -, -, hu⟩ := digestOk_frame s
  exact State.outstanding_congr hp hc hu

theorem digestFail_outstanding (s : State) : s.digestFail.outstanding = s.outstanding := by
  obtain ⟨hp, -, hc, -, -, -, -, hu⟩ := digestFail_frame s
  exact State.outstanding_congr hp hc hu

/-- A call that answers a next state has presented one command. -/
theorem callOp_outstanding {f : SourceOp} {x : Option Str} {s t : State} (h : callOp f x s = .next t) :
    t.outstanding = s.outstanding + 1 := by
  unfold callOp at h
  split at h
  next => cases h
  next => cases h; exact State.present_outstanding s _

/-- Settles O55: move by move, and for the core by the effects of its turn. -/
theorem outstandingCountsTheUnansweredCommands : Obligations.OutstandingCountsTheUnansweredCommands := by
  refine fun s t h => ⟨?_, fun hturn => ?_, fun hm => ?_, fun hm => ?_⟩
  · rintro (⟨w, hm⟩ | ⟨f, x, hm⟩) <;> rw [step_of_head? hm] at h
    · cases h; exact State.present_outstanding s.popMove w
    · exact callOp_outstanding (s := s.popMove) h
  · rw [step_of_coresTurn s hturn] at h
    exact turnEffect_outstanding (s := s.popMove) (turnEffect_of_coreTurn h)
  · rw [step_of_head? hm] at h
    cases h; exact State.assertReset_outstanding s.popMove
  · simp only [List.mem_cons, List.not_mem_nil, or_false] at hm
    obtain hm | hm | hm := hm <;> rw [step_of_head? hm] at h <;> cases h
    · exact State.readResponse_outstanding s.popMove
    · exact digestOk_outstanding s.popMove
    · exact digestFail_outstanding s.popMove

/-- No step takes a command that a reset left without a response off its count. -/
theorem unanswered_le_of_step {s t : State} (h : step s = .next t) : s.unanswered ≤ t.unanswered := by
  cases stepEffect_of_step h with
  | turn _ effect =>
    cases effect with
    | wait | answer | request | complete | fault => exact le_rfl
  | present | read | discarded | arrives => exact le_rfl
  | reset => simp only [State.assertReset_unanswered, State.outstanding]; omega

theorem unanswered_le_of_run {k : Nat} {s t : State} (h : Host.Core.run core k s = .next t) :
    s.unanswered ≤ t.unanswered := by
  induction k generalizing s with
  | zero => cases h; exact le_rfl
  | succ k ih =>
    cases hstep : step s with
    | next u =>
      rw [run_succ_of_step k hstep] at h
      exact (unanswered_le_of_step hstep).trans (ih h)
    | fault r => cases r
    | refused r => simp only [Host.Core.run, show core.step s = .refused r from hstep] at h; cases h

/-- What a reset finds waiting, held or unread it leaves without a response. -/
theorem unanswered_pos_of_reset {s : State} (h : s.phase = .waitDigest ∨ s.cmdPort ≠ [] ∨ s.rspPort ≠ []) :
    0 < s.assertReset.unanswered := by
  rw [State.assertReset_unanswered, State.outstanding]
  obtain hp | hc | hr := h
  · rw [if_pos hp]; omega
  · have := List.length_pos_of_ne_nil hc; omega
  · have := List.length_pos_of_ne_nil hr; omega

/-- Settles O56: the reset makes the count positive, no later step lowers it, and a run that ended well has none. -/
theorem abandonedCommandNeverEndsWell : Obligations.AbandonedCommandNeverEndsWell := by
  rintro s t u k hm hlost hstep hrun ⟨-, hnone, -⟩
  rw [step_of_head? hm] at hstep
  cases hstep
  have pos := unanswered_pos_of_reset (s := s.popMove) hlost
  have mono := unanswered_le_of_run hrun
  have zero := ((State.outstanding_eq_zero_iff u).1 hnone).2.2
  omega

end Sys2Proof.Machine
end

section
/-!
PROOFS on Wiegand64: the table REV and how it composes with ALPHA (R70), the operand of a short text (R23, R75), and the
round trip of an identifier through its word (43_w64_decode.md section 3).
-/
namespace Sys2Proof

/-! Trimming where there is nothing to trim, and behind characters that are trimmed anyway. -/

theorem trimEnds_eq_self {p : Byte → Bool} {t : Str} (h : ∀ c ∈ t, p c = false) : trimEnds p t = t := by
  obtain ⟨l, r, hl, hr, hsplit⟩ := trimEnds_split p t
  have none_trimmed {u : Str} (hu : ∀ c ∈ u, p c = true) (hsub : ∀ c ∈ u, c ∈ t) : u = [] :=
    List.eq_nil_iff_forall_not_mem.2 fun c hc => Bool.false_ne_true ((h c (hsub c hc)).symm.trans (hu c hc))
  have left := none_trimmed hl fun c hc => by rw [hsplit]; simp [hc]
  have right := none_trimmed hr fun c hc => by rw [hsplit]; simp [hc]
  rw [left, right, List.nil_append, List.append_nil] at hsplit
  exact hsplit.symm

theorem trimEnds_append_left {p : Byte → Bool} {l : Str} (t : Str) (h : ∀ c ∈ l, p c = true) :
    trimEnds p (l ++ t) = trimEnds p t := by
  rw [trimEnds, List.dropWhile_append_of_pos h, trimEnds]

/-! The operand of a text of at most ten characters (R23, R75). -/

theorem IdOperand.ofText_len_toNat {t : Str} (h : t.length ≤ 10) :
    (IdOperand.ofText (some t)).len.toNat = t.length := by
  rw [IdOperand.ofText, BitVec.toNat_ofNat]
  omega

theorem IdOperand.ofText_text {t : Str} (h : t.length ≤ 10) : (IdOperand.ofText (some t)).text = t := by
  rw [IdOperand.text, IdOperand.ofText_len_toNat h, IdOperand.ofText, List.take_take, Config.nChars,
    Nat.min_eq_left h, List.take_left]

end Sys2Proof

namespace Sys2Proof.Machine

/-! REV after ALPHA (R69, R70). -/

/-- A space, a digit or a capital letter survives the two maps. -/
theorem rev_alpha_of_kept {c : Byte}
    (h : c = 0x20#8 ∨ (0x30 ≤ c.toNat ∧ c.toNat ≤ 0x39) ∨ (0x41 ≤ c.toNat ∧ c.toNat ≤ 0x5A)) : rev (alpha c) = c := by
  have code (a : Nat) (ha : a ≤ c.toNat) : c = BitVec.ofNat 8 (a + (c.toNat - a)) := by
    rw [Nat.add_sub_cancel' ha, BitVec.ofNat_toNat, BitVec.setWidth_eq]
  obtain rfl | ⟨hlo, hhi⟩ | ⟨hlo, hhi⟩ := h
  · rfl
  · rw [code _ hlo, alpha_digit (by omega), rev_digit (by omega)]
  · rw [code _ hlo, alpha_letter (by omega), rev_letter (by omega)]

theorem rev_alpha_of_other {c : Byte}
    (h : ¬(c = 0x20#8 ∨ (0x30 ≤ c.toNat ∧ c.toNat ≤ 0x39) ∨ (0x41 ≤ c.toNat ∧ c.toNat ≤ 0x5A))) :
    rev (alpha c) = 0x3F#8 := by
  obtain ⟨hs, hd, hl⟩ := not_or.1 h |>.imp_right not_or.1
  rw [alpha_other (fun h => hs (BitVec.eq_of_toNat_eq h)) hd hl]; rfl

/-- Settles O20: the two tables on their 64 values, and REV after ALPHA class by class. -/
theorem revTableAndCompositions : Obligations.RevTableAndCompositions := by
  refine ⟨by decide, fun c => ?_, by decide⟩
  split
  next h => exact rev_alpha_of_kept h
  next h => exact rev_alpha_of_other h

/-! The word of an identifier, decoded (43_w64_decode.md section 3). -/

theorem exec_w64Enc_ofText {t : Str} (s : State) (h1 : 1 ≤ t.length) (h10 : t.length ≤ 10) :
    exec (.w64Enc (IdOperand.ofText (some t))) s = .next { s with
      phase := .idle
      rspPort := s.rspPort ++ [.okCode64 (pack64 ((pad10 t).map alpha))] } := by
  have hlen := IdOperand.ofText_len_toNat h10
  rw [exec_w64Enc_of_fits s rfl (hlen ▸ h1) (hlen ▸ h10), IdOperand.ofText_text h10]

theorem unpack64_pack64 {g : List Group} (h : g.length = 10) : unpack64 (pack64 g) = g := by
  have low6 (n : Nat) : BitVec.ofNat 6 (n % 64) = BitVec.ofNat 6 n :=
    BitVec.eq_of_toNat_eq (by rw [BitVec.toNat_ofNat, BitVec.toNat_ofNat]; omega)
  refine List.ext_getElem? fun i => ?_
  by_cases hi : i < 10
  · rw [unpack64_getElem? _ hi, low6, pack64_group h hi]
  · rw [List.getElem?_eq_none (by rw [unpack64_length]; omega), List.getElem?_eq_none (by omega)]

/-- The raw text of the word of an identifier over the 37 characters is the padded identifier. -/
theorem raw_of_packed {t : Str} (h10 : t.length ≤ 10)
    (hc : ∀ c ∈ t, c = 0x20#8 ∨ (0x30 ≤ c.toNat ∧ c.toNat ≤ 0x39) ∨ (0x41 ≤ c.toNat ∧ c.toNat ≤ 0x5A)) :
    (unpack64 (pack64 ((pad10 t).map alpha))).map rev = pad10 t := by
  rw [unpack64_pack64 (by rw [List.length_map, pad10_length h10]), List.map_map]
  refine (List.map_congr_left fun c hmem => ?_).trans (List.map_id _)
  obtain hpad | ht := List.mem_append.1 hmem
  · exact rev_alpha_of_kept (.inl (List.eq_of_mem_replicate hpad))
  · exact rev_alpha_of_kept (hc c ht)

theorem trimText_pad10 (t : Str) : trimText (pad10 t) = trimText t :=
  trimEnds_append_left t fun _ hc => beq_iff_eq.2 (List.eq_of_mem_replicate hc)

theorem trimText_eq_self {t : Str} (h : 0x20#8 ∉ t) : trimText t = t :=
  trimEnds_eq_self fun _ hc => beq_eq_false_iff_ne.2 fun heq => h (by rwa [heq] at hc)

/-- Settles O28: the raw text is the padded identifier, whose trimming is that of the identifier. -/
theorem w64RoundTrip : Obligations.W64RoundTrip := by
  intro t s u h1 h10 hc
  have hle := (trimText_length_le t).trans h10
  refine ⟨_, _, _, _, exec_w64Enc_ofText s h1 h10, exec_w64Dec_of_value_or_ovf u (.inl rfl), ?_⟩
  rw [raw_of_packed h10 hc, trimText_pad10, tlen_toNat hle, alignText_take]
  exact ⟨trimText_split t, trimText_head?_ne t, trimText_getLast?_ne t,
    fun hs => ⟨trimText_eq_self hs, congrArg List.length (trimText_eq_self hs)⟩⟩

/-- An identifier of capital letters and digits is what its word decodes to. -/
theorem identifier_of_packed {t : Str} (h10 : t.length ≤ 10)
    (hc : ∀ c ∈ t, (0x30 ≤ c.toNat ∧ c.toNat ≤ 0x39) ∨ (0x41 ≤ c.toNat ∧ c.toNat ≤ 0x5A)) :
    trimText ((unpack64 (pack64 ((pad10 t).map alpha))).map rev) = t := by
  have no_space : 0x20#8 ∉ t := fun hs => absurd (hc _ hs) (by decide)
  rw [raw_of_packed h10 fun c h => .inr (hc c h), trimText_pad10, trimText_eq_self no_space]

/-- Settles O29: the outcome holds the word, and the word decodes to the identifier. -/
theorem w64EncIsInjective : Obligations.W64EncIsInjective := by
  intro t t' s h1 h10 h1' h10' hc h
  obtain ⟨hct, hct'⟩ := List.forall_mem_append.1 hc
  rw [exec_w64Enc_ofText s h1 h10, exec_w64Enc_ofText s h1' h10'] at h
  have word : pack64 ((pad10 t).map alpha) = pack64 ((pad10 t').map alpha) := by simpa using h
  rw [← identifier_of_packed h10 hct, word, identifier_of_packed h10' hct']

end Sys2Proof.Machine
end

section
/-!
PROOFS on commands as functions of their operand and of the state: the shared tests of the two encoders (R171, R174, R176),
the parts of an operand that no meaning reads (U9), and the independence of successive commands (60_exceptions.md
section 4).
-/
namespace Sys2Proof.Machine

theorem exec_w26Enc_of_absent {id : IdOperand} (s : State) (h : id.present = false ∨ id.len = 0#8) :
    exec (.w26Enc id) s = .next { s with phase := .idle, rspPort := s.rspPort ++ [.absent] } :=
  if_pos ((isAbsent_iff id).2 h)

theorem exec_w26Enc_of_tooLong {id : IdOperand} (s : State) (hp : id.present = true) (hl : 10 < id.len.toNat) :
    exec (.w26Enc id) s = .next { s with rspPort := s.rspPort ++ [.tooLong] } := by
  have ha := isAbsent_of_len_pos hp (by omega)
  have ht := (isTooLong_iff id).2 hl
  simp only [exec, execW26Enc, ha, ht]; rfl

/-- Settles O30: the first two ends of each encoder. -/
theorem encodersTestAbsentThenLength : Obligations.EncodersTestAbsentThenLength :=
  fun _ s => ⟨fun h => ⟨exec_w26Enc_of_absent s h, exec_w64Enc_of_absent s h⟩,
    fun hp hl => ⟨exec_w26Enc_of_tooLong s hp hl, exec_w64Enc_of_tooLong s hp hl⟩⟩

/-! Which parts of an operand are read (U9). -/

/-- The encoders read an operand by its two tests and its text. -/
theorem encoders_congr {id id' : IdOperand} (s : State) (ha : id.isAbsent = id'.isAbsent)
    (hl : id.isTooLong = id'.isTooLong) (ht : id.text = id'.text) :
    exec (.w26Enc id) s = exec (.w26Enc id') s ∧ exec (.w64Enc id) s = exec (.w64Enc id') s := by
  simp only [exec, execW26Enc, execW64Enc, ha, hl, ht, and_self]

/-- VALID26 reads the value of the kind `K_VALUE` only. -/
theorem valid26_of_kind_ne_value {k : Kind} (v : BitVec 64) (hk : k ≠ .value) : CodeOperand.valid26 ⟨k, v⟩ = none :=
  (valid26_eq_none_iff _).2 (.inl hk)

/-- Settles O36: the tests and the text decide for the encoders; the kind alone, where the value has no meaning, for the
others. -/
theorem meaninglessOperandPartsAreIgnored : Obligations.MeaninglessOperandPartsAreIgnored := by
  refine ⟨fun id id' s h => ?_, fun k v v' s => ⟨fun hk => ?_, fun hk => ?_⟩⟩
  · obtain ⟨hp, hp'⟩ | ⟨hp, hp', ⟨hl, hl'⟩ | ⟨hlen, htext⟩⟩ := h
    · exact ⟨by rw [exec_w26Enc_of_absent s (.inl hp), exec_w26Enc_of_absent s (.inl hp')],
        by rw [exec_w64Enc_of_absent s (.inl hp), exec_w64Enc_of_absent s (.inl hp')]⟩
    · exact ⟨by rw [exec_w26Enc_of_tooLong s hp hl, exec_w26Enc_of_tooLong s hp' hl'],
        by rw [exec_w64Enc_of_tooLong s hp hl, exec_w64Enc_of_tooLong s hp' hl']⟩
    · exact encoders_congr s (by rw [IdOperand.isAbsent, IdOperand.isAbsent, hp, hp', hlen])
        (by rw [IdOperand.isTooLong, IdOperand.isTooLong, hlen])
        (by rw [IdOperand.text, IdOperand.text, htext, hlen])
  · rw [exec_w64Dec_of_isNone (code := ⟨k, v⟩) s hk, exec_w64Dec_of_isNone (code := ⟨k, v'⟩) s hk]
  · have invalid := valid26_of_kind_ne_value v hk
    have invalid' := valid26_of_kind_ne_value v' hk
    simp only [exec, execW26Dec, execW26Rdfc, execW26Rdid, execW26Rdpay, readField, invalid, invalid',
      CodeOperand.isNone, and_self]

/-! Successive commands. -/

/-- A primitive does not read the response port: with other responses unread it emits behind these. -/
theorem IsPrimitive.of_rspPort {f : State → Result} (hf : IsPrimitive f) {s u : State} (h : f s = .next u)
    (l : List Response) :
    f { s with rspPort := l } = .next { u with rspPort := l ++ u.rspPort.drop s.rspPort.length } := by
  obtain ⟨r, hr⟩ | hr | ⟨e, hr⟩ | ⟨q, hr⟩ := hf <;> rw [hr] at h <;> cases h <;> rw [hr]
  · simp [ok_eq]
  · simp [absent_eq]
  · simp [raise_eq]
  · simp [awaitDigest_eq]

theorem exec_of_rspPort {j : Instr} {s u : State} (h : exec j s = .next u) (l : List Response) :
    exec j { s with rspPort := l } = .next { u with rspPort := l ++ u.rspPort.drop s.rspPort.length } := by
  cases hr : j.isReserved with
  | true => rw [exec_eq_refused_of_isReserved j s hr] at h; cases h
  | false => exact (exec_isPrimitive j hr).of_rspPort h l

/-- Settles O35: an answered command has only appended its response, and no command reads the response port. -/
theorem nextCommandIsUnaffected : Obligations.NextCommandIsUnaffected := by
  intro i j s t u hs hi ht hj
  obtain ⟨r, rfl⟩ | ⟨_, _, _, _, _, rfl⟩ := commandFrame.1 i s t hs hi
  · exact exec_of_rspPort hj _
  · cases ht

end Sys2Proof.Machine
end

section
/-!
PROOFS on the host's text functions: `hex_render` and `hex_parse` (30_encoding.md R72, R73), the normaliser's contract
(70_reset_and_hazards.md R208), and the round trip of a text through the two Wiegand64 calls (R76).
-/
namespace Sys2Proof.Machine

/-! Characters. -/

/-- A printable character is no white space (N14). -/
theorem isWhite_of_printable {c : Byte} (hlo : 0x21 ≤ c.toNat) (hhi : c.toNat ≤ 0x7E) : isWhite c = false := by
  have not_space : (c == Config.space) = false := beq_eq_false_iff_ne.2 fun h => by rw [h] at hlo; revert hlo; decide
  simp [isWhite, not_space, hlo, hhi]

theorem hexDigit?_hexChar {d : Nat} (h : d < 16) : hexDigit? (hexChar d) = some d := by
  decide +revert

theorem hexDigit?_isSome_iff (c : Byte) :
    (hexDigit? c).isSome = true ↔ (0x30 ≤ c.toNat ∧ c.toNat ≤ 0x39) ∨ (0x41 ≤ c.toNat ∧ c.toNat ≤ 0x46) ∨
      (0x61 ≤ c.toNat ∧ c.toNat ≤ 0x66) := by
  unfold hexDigit?
  split
  next h => simp [h]
  split
  next h => simp [h]
  split
  next h => simp [h]
  next h1 h2 h3 => simp [h1, h2, h3]

theorem isWhite_of_hexDigit {c : Byte} (h : (hexDigit? c).isSome = true) : isWhite c = false := by
  have range := (hexDigit?_isSome_iff c).1 h
  exact isWhite_of_printable (by omega) (by omega)

theorem isAlnum_iff (c : Byte) :
    isAlnum c = true ↔ (0x30 ≤ c.toNat ∧ c.toNat ≤ 0x39) ∨ (0x41 ≤ c.toNat ∧ c.toNat ≤ 0x5A) := by
  simp [isAlnum]

/-! `hex_render`: the last digit is the value's remainder, the digits before it render the quotient (R72). -/

theorem hexRender_length (v n : Nat) : (hexRender v n).length = n := by
  rw [hexRender, List.length_map, List.length_range]

theorem hexRender_succ (v n : Nat) : hexRender v (n + 1) = hexRender (v / 16) n ++ [hexChar (v % 16)] := by
  rw [hexRender, List.range_succ, List.map_append, List.map_singleton, hexRender]
  congr 1
  · refine List.map_congr_left fun i hi => ?_
    have hi := List.mem_range.1 hi
    rw [show n + 1 - 1 - i = n - 1 - i + 1 by omega, Nat.pow_succ', Nat.div_div_eq_div_mul]
  · simp

theorem hexDigit_of_mem_hexRender {v n : Nat} {c : Byte} (h : c ∈ hexRender v n) : (hexDigit? c).isSome = true := by
  obtain ⟨i, -, rfl⟩ := List.mem_map.1 h
  rw [hexDigit?_hexChar (Nat.mod_lt _ (by decide)), Option.isSome_some]

/-! The number that a text of digits spells (R73). -/

theorem hexNumber_concat (t : Str) (c : Byte) :
    hexNumber (t ++ [c]) = hexNumber t * 16 + (hexDigit? c).getD 0 :=
  List.foldl_concat _ _ _ _

theorem hexNumber_hexRender {v n : Nat} (h : v < 16 ^ n) : hexNumber (hexRender v n) = v := by
  induction n generalizing v with
  | zero =>
    obtain rfl : v = 0 := by omega
    rfl
  | succ n ih =>
    rw [Nat.pow_succ] at h
    rw [hexRender_succ, hexNumber_concat, ih (by omega), hexDigit?_hexChar (Nat.mod_lt _ (by decide)), Option.getD_some]
    omega

theorem hexNumber_zeros_append (k : Nat) (t : Str) : hexNumber (List.replicate k 0x30#8 ++ t) = hexNumber t := by
  induction k with
  | zero => rfl
  | succ k ih => exact ih

/-! `hex_parse` on each kind of text (R73). -/

theorem all_isWhite_of_mem {t : Str} {c : Byte} (hc : c ∈ t) (hw : isWhite c = false) : t.all isWhite = false :=
  List.all_eq_false.2 ⟨c, hc, Bool.eq_false_iff.1 hw⟩

theorem hexParse_of_digits {t : Str} (hne : t ≠ []) (h : ∀ c ∈ t, (hexDigit? c).isSome = true) :
    hexParse (some t) = some
      { kind := if hexNumber t < 2 ^ 64 then .value else .ovf, val := BitVec.ofNat 64 (hexNumber t) } := by
  obtain ⟨c, hc⟩ := List.exists_mem_of_ne_nil t hne
  have not_white := all_isWhite_of_mem hc (isWhite_of_hexDigit (h c hc))
  have digits : (t.all fun c => (hexDigit? c).isSome) = true := List.all_eq_true.2 h
  simp only [hexParse, not_white, digits]; rfl

theorem hexParse_of_spaces (k : Nat) : hexParse (some (List.replicate k 0x20#8)) = some CodeOperand.blank := by
  have white : (List.replicate k 0x20#8).all isWhite = true :=
    List.all_eq_true.2 fun c hc => by rw [List.eq_of_mem_replicate hc]; rfl
  simp only [hexParse, white]; rfl

/-- A printable character that is no digit leaves the text undefined (U8). -/
theorem hexParse_of_undefined {t : Str} {c : Byte} (hc : c ∈ t) (hw : isWhite c = false) (hd : hexDigit? c = none) :
    hexParse (some t) = none := by
  have not_white := all_isWhite_of_mem hc hw
  have not_digits : (t.all fun c => (hexDigit? c).isSome) = false :=
    List.all_eq_false.2 ⟨c, hc, by rw [hd]; decide⟩
  simp only [hexParse, not_white, not_digits]; rfl

/-- Settles O50: the text is digits only, and the number it spells is that of the rendered value. -/
theorem hexParseReadsRenderedText : Obligations.HexParseReadsRenderedText := by
  refine fun v n hn hv => ⟨hexRender_length v n, fun k => ?_⟩
  have ne_nil : List.replicate k 0x30#8 ++ hexRender v n ≠ [] :=
    List.append_ne_nil_of_right_ne_nil _ (List.ne_nil_of_length_pos (by rw [hexRender_length]; exact hn))
  have digits : ∀ c ∈ List.replicate k 0x30#8 ++ hexRender v n, (hexDigit? c).isSome = true :=
    List.forall_mem_append.2 ⟨fun c hc => by rw [List.eq_of_mem_replicate hc]; rfl, fun c => hexDigit_of_mem_hexRender⟩
  rw [hexParse_of_digits ne_nil digits, hexNumber_zeros_append, hexNumber_hexRender hv]

/-- Settles O51: the three kinds of text that spell no number. -/
theorem hexParseOfOtherText : Obligations.HexParseOfOtherText := by
  refine ⟨rfl, hexParse_of_spaces, fun t c hc hlo hhi hdigit hupper hlower => ?_⟩
  have no_digit : hexDigit? c = none := by
    rw [← Option.not_isSome_iff_eq_none, hexDigit?_isSome_iff]
    exact not_or.2 ⟨hdigit, not_or.2 ⟨hupper, hlower⟩⟩
  have undefined := hexParse_of_undefined hc (isWhite_of_printable hlo hhi) no_digit
  refine ⟨undefined, fun s rest h => ?_⟩
  simp only [step_of_cons h, move, callOp, hostCall, undefined, Option.map_none]

/-! The normaliser (R208). -/

theorem upper_of_isAlnum {c : Byte} (h : isAlnum c = true) : upper c = [c] := by
  have range := (isAlnum_iff c).1 h
  rw [upper, if_neg (by omega), if_pos (by omega)]

theorem isWhite_of_isAlnum {c : Byte} (h : isAlnum c = true) : isWhite c = false := by
  have range := (isAlnum_iff c).1 h
  exact isWhite_of_printable (by omega) (by omega)

theorem normalise_spec {t : Option Str} {r : Str} (h : normalise t = some r) :
    r ≠ [] ∧ ∀ c ∈ r, isAlnum c = true := by
  cases t with
  | none => cases h
  | some t =>
    simp only [normalise] at h
    split at h
    next => cases h
    next hne => cases h; exact ⟨hne, fun c hc => (List.mem_filter.1 hc).2⟩

theorem normalise_of_isAlnum {r : Str} (hne : r ≠ []) (h : ∀ c ∈ r, isAlnum c = true) : normalise (some r) = some r := by
  have trimmed : trimEnds isWhite r = r := trimEnds_eq_self fun c hc => isWhite_of_isAlnum (h c hc)
  have uppered : r.flatMap upper = r := by
    rw [List.flatMap_congr fun c hc => upper_of_isAlnum (h c hc), List.flatMap_singleton']
  have kept : r.filter isAlnum = r := List.filter_eq_self.2 h
  simp only [normalise, trimmed, uppered, kept, if_neg hne]

/-- Settles O52: the last step of the normaliser filters, and no step changes a text of capital letters and digits. -/
theorem normaliserContract : Obligations.NormaliserContract := by
  refine ⟨fun t r h => ?_, fun r hne h => normalise_of_isAlnum hne fun c hc => (isAlnum_iff c).2 (h c hc)⟩
  obtain ⟨hne, hr⟩ := normalise_spec h
  exact ⟨hne, fun c hc => (isAlnum_iff c).1 (hr c hc)⟩

/-! The text round trip (R76, C6). -/

/-- The 16-digit text of a word is read back as that word. -/
theorem hexParse_hexRender_word (c : BitVec 64) :
    hexParse (some (hexRender c.toNat Config.hex64Digits)) = some ⟨.value, c⟩ := by
  have parsed := (hexParseReadsRenderedText c.toNat 16 (by decide) (by have := c.isLt; omega)).2 0
  rw [if_pos c.isLt, BitVec.ofNat_toNat, BitVec.setWidth_eq] at parsed
  exact parsed

/-- The call of `decode` with the text of a word is `W64.DEC` of that word. -/
theorem hostCall_decode64_text (c : BitVec 64) :
    hostCall .decode64 (Response.okCode64 c).text? = some (.w64Dec ⟨.value, c⟩) :=
  congrArg (Option.map Instr.w64Dec) (hexParse_hexRender_word c)

/-- The text handed to the caller is the trimmed text. -/
theorem textResponse_text? (v : BitVec 64) :
    (textResponse v).text? = some (trimText ((unpack64 v).map rev)) := by
  simp only [textResponse, Response.text?, tlen_toNat (trimText_map_rev_length_le v), alignText_take]

/-- Settles O53: the word of the normalised identifier, through its text, to the identifier it decodes to. -/
theorem textRoundTrip64 : Obligations.TextRoundTrip64 := by
  intro t r s u h h10
  obtain ⟨hne, hr⟩ := normalise_spec h
  refine ⟨_, _, _, _, _, _, by rw [hostCall, h], exec_w64Enc_ofText s (List.length_pos_of_ne_nil hne) h10, rfl,
    hostCall_decode64_text _, exec_w64Dec_of_value_or_ovf u (.inl rfl), rfl, ?_⟩
  rw [textResponse_text?, identifier_of_packed h10 fun c hc => (isAlnum_iff c).1 (hr c hc)]

end Sys2Proof.Machine
end
